-- ==== Sys2Proof/Word.lean ====
section
/-! DEFINITION. The word types of the block (spec 00_scope rule R7) and a colour as a triple of
8-bit components (43_palette, decision D17). -/

namespace Sys2Proof

/-- A buffer byte, the status byte, a control, attribute, character or glyph byte (R7). -/
abbrev Byte := BitVec 8

/-- A CPU address (R7, R28). -/
abbrev CpuAddr := BitVec 16

/-- A transaction word TXN64 (R60). -/
abbrev TxnWord := BitVec 64

/-- A glyph index `{chr[7:0], ra[3:0]}` (R55). -/
abbrev GlyphIndex := BitVec 12

/-- A palette index, 0..39 (R7, R59): the type admits no other. -/
abbrev PalIndex := Fin 40

/-- A colour: an (R, G, B) triple of 8-bit components (D17). -/
structure Colour where
  red : Byte
  green : Byte
  blue : Byte
deriving DecidableEq, Repr

end Sys2Proof
end

