-- ==== Sys2Proof/Config.lean ====
section
/-! DEFINITION. What is fixed for one machine: the sizes the spec fixes, the configuration record
`Cfg` of the OPEN parameters (00_scope rule R3), the configuration `State.reset` carries (log 4),
and the draws a `RESET` takes, free values with no body (00_scope rule R4, log 5). -/

namespace Sys2Proof

/-- `RAM_SIZE`: 64 KiB (R3, R18). -/
def Config.ramSize : Nat := 0x10000

/-- `VRAM_SIZE`: 2048 codes and 2048 attributes (R3, R20). -/
def Config.vramSize : Nat := 0x1000

/-- `CHARROM_SIZE`: 256 glyphs of 16 bytes, then 32 colour codes (R3, R21). -/
def Config.charromSize : Nat := 0x1020

/-- One of the two ROM banks (R18). -/
inductive RomBank where
  | rom1
  | rom2
deriving DecidableEq, Repr

/-- The ROM view of read window 2 or 3: a ROM bank and an offset (R34, D5). The bank is a ROM by
type, the first clause of R40 item 4. -/
structure RomView where
  bank : RomBank
  off : Nat
deriving DecidableEq, Repr

/-- The CPU address range of a window: `WIN_BASE_k` and `WIN_SIZE_k` (R31, D1). -/
structure Window where
  base : Nat
  size : Nat
deriving DecidableEq, Repr

/-- A ROM's contents: how many bytes it has, and those of them that are not 0x00 (log 16). -/
structure Image where
  bytes : Nat
  cells : List Host.Cell
deriving DecidableEq, Repr

/-- An image of `bytes` zero bytes. -/
def Image.blank (bytes : Nat) : Image := { bytes := bytes, cells := [] }

/-- The configuration record (R3). It is plain data, carried in the state and changed by no step
(log 3). -/
structure Cfg where
  /-- `HIRES_SIZE` -/
  hiresSize : Nat
  /-- `ROM1_SIZE` -/
  rom1Size : Nat
  /-- `ROM2_SIZE` -/
  rom2Size : Nat
  /-- `ROM1_IMAGE` -/
  rom1Image : Image
  /-- `ROM2_IMAGE` -/
  rom2Image : Image
  /-- `CHARROM_IMAGE` -/
  charromImage : Image
  /-- `WIN_BASE_1`, `WIN_SIZE_1` -/
  win1 : Window
  /-- `WIN_BASE_2`, `WIN_SIZE_2` -/
  win2 : Window
  /-- `WIN_BASE_3`, `WIN_SIZE_3` -/
  win3 : Window
  /-- `WIN_BASE_4`, `WIN_SIZE_4` -/
  win4 : Window
  /-- `ROMVIEW_R2` -/
  romviewR2 : RomView
  /-- `ROMVIEW_R3` -/
  romviewR3 : RomView
  /-- `HIRES_W4_OFF` -/
  hiresW4Off : Nat
  /-- `PIXCLK_0`, in Hz -/
  pixclk0 : Nat
  /-- `PIXCLK_1`, in Hz -/
  pixclk1 : Nat
  /-- `CTRL_PORT` -/
  ctrlPort : Nat
  /-- `STATUS_PORT` -/
  statusPort : Nat
deriving DecidableEq, Repr

/-- The configuration `State.reset` carries. DESIGN CHOICE, unsafe for a claim about `State.reset`
alone (log 4): the map and sizes of the fixture TC (95_test_vectors section 2), with blank ROMs. -/
def Cfg.fixture : Cfg where
  hiresSize := 0x8000
  rom1Size := 0x4000
  rom2Size := 0x2000
  rom1Image := Image.blank 0x4000
  rom2Image := Image.blank 0x2000
  charromImage := Image.blank 0x1020
  win1 := { base := 0x0000, size := 0x2000 }
  win2 := { base := 0x2000, size := 0x1000 }
  win3 := { base := 0x3000, size := 0x1000 }
  win4 := { base := 0x4000, size := 0x8000 }
  romviewR2 := { bank := .rom2, off := 0x0000 }
  romviewR3 := { bank := .rom2, off := 0x1000 }
  hiresW4Off := 0
  pixclk0 := 1000000
  pixclk1 := 2000000
  ctrlPort := 0x70
  statusPort := 0x50

/-- The draw `RESET_STATUS` of the `k`-th `RESET`: any 8-bit value (R4, R109, D10; log 5). -/
opaque Config.resetStatus : Nat → Byte

/-- The draw `RESET_VS` of the `k`-th `RESET` (R4, R109, D11; log 5). -/
opaque Config.resetVs : Nat → Bool

/-- The draw `RESET_DE` of the `k`-th `RESET` (R4, R109, D11; log 5). -/
opaque Config.resetDe : Nat → Bool

end Sys2Proof
end

