-- ==== Sys2Proof/Syntax.lean ====
section
/-! DEFINITION. The instructions: one constructor per row of spec/opcode_table.json. The first five
are the Bank Controller's decode classes of a control byte (format CTRL8, 30_encoding rule R50); the
other nine are the interface transactions (format TXN64, 00_scope rule R5, 30_encoding rule R61). -/

namespace Sys2Proof

/-- One row of the opcode table with its operands. -/
inductive Instr where
  /-- Control byte `d` of class `CTRL_FULLRAM` (R50, R66). -/
  | ctrlFullram (d : Byte)
  /-- Control byte `d` of class `CTRL_ROM_HIRESW4` (R50, R67). -/
  | ctrlRomHiresw4 (d : Byte)
  /-- Control byte `d` of class `CTRL_ROM_HIRESW4_HI` (R50, R67, R69). -/
  | ctrlRomHiresw4Hi (d : Byte)
  /-- Control byte `d` of class `CTRL_ROM_RAMW4` (R50, R68). -/
  | ctrlRomRamw4 (d : Byte)
  /-- Control byte `d` of class `CTRL_ROM_RAMW4_HI` (R50, R68, R69). -/
  | ctrlRomRamw4Hi (d : Byte)
  /-- `RESET`, the source's `machine_reset` (R109). -/
  | reset
  /-- `IOW_CTRL d`, a CPU write of the control port (R77). -/
  | iowCtrl (d : Byte)
  /-- `IOR_STATUS`, a CPU read of the status port (R79). -/
  | iorStatus
  /-- `MEMR a`, a CPU memory read or instruction fetch (R73). -/
  | memr (a : CpuAddr)
  /-- `MEMW a, d`, a CPU memory write (R74). -/
  | memw (a : CpuAddr) (d : Byte)
  /-- `VSYNC l`, the vertical-sync line level (R81). -/
  | vsync (l : Bool)
  /-- `DE l`, the display-enable line level (R82). -/
  | de (l : Bool)
  /-- `RENDER base, ra, n, cur`, one scanline; `cur` is a cursor column or none (R84, R93). -/
  | render (base : BitVec 16) (ra : BitVec 4) (n : BitVec 16) (cur : Option (BitVec 16))
  /-- `PALINIT`, the source's `Palette.initialize()` (R96). -/
  | palinit
deriving DecidableEq, Repr

end Sys2Proof
end

