-- ==== Sys2Proof/WellFormed.lean ====
section
/-! DEFINITION. Which terms of `Instr` an encoding spells. The operand types already carry every
width of 30_encoding rule R61; what is left is that the byte of a CTRL8 row is in the row's class
(rule R50: match and mask). -/

namespace Sys2Proof

/-- A byte `d` is in the class with this match and mask (R50). -/
def inCtrlClass (mtch mask d : Byte) : Bool := d &&& mask == mtch

/-- The instruction is one that some input spells. -/
def Instr.wf : Instr → Bool
  | .ctrlFullram d => inCtrlClass 0x02#8 0x02#8 d
  | .ctrlRomHiresw4 d => inCtrlClass 0x01#8 0x23#8 d
  | .ctrlRomHiresw4Hi d => inCtrlClass 0x21#8 0x23#8 d
  | .ctrlRomRamw4 d => inCtrlClass 0x00#8 0x23#8 d
  | .ctrlRomRamw4Hi d => inCtrlClass 0x20#8 0x23#8 d
  | .reset => true
  | .iowCtrl _ => true
  | .iorStatus => true
  | .memr _ => true
  | .memw _ _ => true
  | .vsync _ => true
  | .de _ => true
  | .render _ _ _ _ => true
  | .palinit => true

end Sys2Proof
end

