-- ==== Sys2Proof/Decode.lean ====
section
/-! DEFINITION. Decoding the bits of an instruction, total, with rejections by name, and the
encoder written from the same tables (30_encoding rules R49, R50, R60, R61, R62). -/

namespace Sys2Proof

/-- The bits of an opcode-table row: a transaction word (R60), or a control byte (R49). An input of the
block is a transaction word and nothing else (00_scope rule R5); a control byte reaches it as the operand
of `IOW_CTRL` (00_scope section 4). -/
inductive Code where
  | txn (t : TxnWord)
  | ctrl (d : Byte)
deriving DecidableEq, Repr

/-- Why a transaction word spells no transaction (R62). -/
inductive Reject where
  /-- The kind is 0x09..0xFF. -/
  | reservedKind
  /-- A must-be-zero bit of the kind is set. -/
  | nonzeroMbz
deriving DecidableEq, Repr

/-- The instruction, if the must-be-zero bits of its row are all zero (R61, R62). -/
def ifZero {k : Nat} (mbz : BitVec k) (i : Instr) : Except Reject Instr :=
  if mbz = 0#k then .ok i else .error .nonzeroMbz

/-- The cursor operand of `RENDER`: the column `cur` when `cv` is 1, none otherwise (R61, D19). -/
def cursorOperand (cv : Bool) (cur : BitVec 16) : Option (BitVec 16) :=
  if cv then some cur else none

/-- The kind of a transaction word (R60). -/
def txnKind (t : TxnWord) : Byte := t.extractLsb' 56 8

/-- The transaction a word spells, row by row of R61. -/
def decodeTxn (t : TxnWord) : Except Reject Instr :=
  match (txnKind t).toNat with
  | 0 => ifZero (t.extractLsb' 0 56) .reset
  | 1 => ifZero (t.extractLsb' 8 48) (.iowCtrl (t.extractLsb' 0 8))
  | 2 => ifZero (t.extractLsb' 0 56) .iorStatus
  | 3 => ifZero (t.extractLsb' 24 32 ++ t.extractLsb' 0 8) (.memr (t.extractLsb' 8 16))
  | 4 => ifZero (t.extractLsb' 24 32) (.memw (t.extractLsb' 8 16) (t.extractLsb' 0 8))
  | 5 => ifZero (t.extractLsb' 1 55) (.vsync (t.getLsbD 0))
  | 6 => ifZero (t.extractLsb' 1 55) (.de (t.getLsbD 0))
  | 7 => ifZero (t.extractLsb' 53 3)
      (.render (t.extractLsb' 0 16) (t.extractLsb' 48 4) (t.extractLsb' 16 16)
        (cursorOperand (t.getLsbD 52) (t.extractLsb' 32 16)))
  | 8 => ifZero (t.extractLsb' 0 56) .palinit
  | _ => .error .reservedKind

/-- The class of a control byte, by bits 1, 0 and 5 in that precedence (R50). -/
def decodeCtrl (d : Byte) : Instr :=
  if d.getLsbD 1 then .ctrlFullram d
  else if d.getLsbD 0 then
    if d.getLsbD 5 then .ctrlRomHiresw4Hi d else .ctrlRomHiresw4 d
  else
    if d.getLsbD 5 then .ctrlRomRamw4Hi d else .ctrlRomRamw4 d

/-- Decoding of the bits of any row. -/
def decode : Code → Except Reject Instr
  | .txn t => decodeTxn t
  | .ctrl d => .ok (decodeCtrl d)

/-- The word of `RENDER` (R61): `000 cv ra cur n base` under kind 0x07. -/
def encodeRender (base : BitVec 16) (ra : BitVec 4) (n : BitVec 16) (cur : Option (BitVec 16)) :
    TxnWord :=
  0x07#8 ++ 0#3 ++ BitVec.ofBool cur.isSome ++ ra ++ cur.getD 0#16 ++ n ++ base

/-- The word of `IOW_CTRL d` (R61). -/
def encodeIowCtrl (d : Byte) : TxnWord := 0x01#8 ++ 0#48 ++ d

/-- The bits that spell an instruction (R49, R61). -/
def encode : Instr → Code
  | .ctrlFullram d => .ctrl d
  | .ctrlRomHiresw4 d => .ctrl d
  | .ctrlRomHiresw4Hi d => .ctrl d
  | .ctrlRomRamw4 d => .ctrl d
  | .ctrlRomRamw4Hi d => .ctrl d
  | .reset => .txn (0x00#8 ++ 0#56)
  | .iowCtrl d => .txn (encodeIowCtrl d)
  | .iorStatus => .txn (0x02#8 ++ 0#56)
  | .memr a => .txn (0x03#8 ++ 0#32 ++ a ++ 0#8)
  | .memw a d => .txn (0x04#8 ++ 0#32 ++ a ++ d)
  | .vsync l => .txn (0x05#8 ++ 0#55 ++ BitVec.ofBool l)
  | .de l => .txn (0x06#8 ++ 0#55 ++ BitVec.ofBool l)
  | .render base ra n cur => .txn (encodeRender base ra n cur)
  | .palinit => .txn (0x08#8 ++ 0#56)

/-- The transaction word that brings the bits of a row to the block: the word itself, or, for a control
byte, the `IOW_CTRL` that carries it, since only that runs its decode class (00_scope section 4; log 11). -/
def carrier : Code → TxnWord
  | .txn t => t
  | .ctrl d => encodeIowCtrl d

/-- The row's bits numbered `w`, numbered as spec/opcode_table.json numbers them: a CTRL8 row has 8
bits, a TXN64 row 64; no row has another width. -/
def codeOfBits (nbits w : Nat) : Option Code :=
  match nbits with
  | 8 => some (.ctrl (BitVec.ofNat 8 w))
  | 64 => some (.txn (BitVec.ofNat 64 w))
  | _ => none

/-- The instruction this decoder reads from an opcode-table row's bits. -/
def decodeTableWord (nbits w : Nat) : Option Instr :=
  match codeOfBits nbits w with
  | some code => (decode code).toOption
  | none => none

end Sys2Proof
end

