-- ==== Sys2Proof/Machine/State.lean ====
section
/-! DEFINITION. The state: the spec's record `St` (10_state rule R9), the configuration it runs
under, and the model's own three fields (the inputs still to come, the last result, the draw
counter). Plain data throughout. -/

namespace Sys2Proof.Machine

/-- The bytes of a buffer: (index, byte) pairs, indices strictly rising, no pair equal to what an
unlisted index reads as (`Memory.wf` in Machine/Ops.lean). -/
abbrev Memory := List Host.Cell

/-- The legal selections of read window 1 (R14). -/
inductive SelR1 where
  | ram
  | rom
  | romHi
deriving DecidableEq, Repr

/-- The legal selections of read windows 2 and 3 (R14). -/
inductive SelRom where
  | ram
  | rom
deriving DecidableEq, Repr

/-- The one legal selection of read window 4 and of write window 1 (R14, R16). -/
inductive SelRam where
  | ram
deriving DecidableEq, Repr

/-- The legal selections of write window 2 (R14). -/
inductive SelVid where
  | ram
  | vid
deriving DecidableEq, Repr

/-- The legal selections of write windows 3 and 4 (R14). -/
inductive SelHires where
  | ram
  | hires
deriving DecidableEq, Repr

/-- The reasons for which the block refuses an input (R105). -/
inductive RefuseReason where
  | cfgIllFormed
  | reservedKind
  | nonzeroMbz
  | notBooted
deriving DecidableEq, Repr

/-- What a transaction gives back to its issuer (R6); the model's own port for it (log 2). -/
inductive Result where
  /-- The transaction returns nothing. -/
  | nothing
  /-- The byte of `IOR_STATUS` or `MEMR`. -/
  | byte (r : Byte)
  /-- The rows of `RENDER`: palette indices and colours (R92). -/
  | row (idx : List PalIndex) (col : List Colour)
  /-- The input was refused, for this reason; no value is returned (R105). -/
  | refused (why : RefuseReason)
deriving DecidableEq, Repr

/-- The machine's state. -/
structure State where
  /-- The configuration (R3): no step changes it (log 3). -/
  cfg : Cfg
  /-- `S`, the status byte (R10). -/
  status : Byte
  /-- `VS`, the vertical-sync latch (R11). -/
  vs : Bool
  /-- `DE`, the display-enable latch (R12). -/
  de : Bool
  /-- `selR[1]`, bankr1 (R13, R14). -/
  selR1 : SelR1
  /-- `selR[2]`, bankr2. -/
  selR2 : SelRom
  /-- `selR[3]`, bankr3. -/
  selR3 : SelRom
  /-- `selR[4]`, bankr4 (R16). -/
  selR4 : SelRam
  /-- `selW[1]`, bankw1 (R16). -/
  selW1 : SelRam
  /-- `selW[2]`, bankw2. -/
  selW2 : SelVid
  /-- `selW[3]`, bankw3. -/
  selW3 : SelHires
  /-- `selW[4]`, bankw4. -/
  selW4 : SelHires
  /-- `RAM` (R18). -/
  ram : Memory
  /-- `VRAM` (R18, R20). -/
  vram : Memory
  /-- `HIRES` (R18, R21). -/
  hires : Memory
  /-- A `RESET` has been taken (R23). -/
  booted : Bool
  /-- An input was refused (R23). -/
  refused : Bool
  /-- The transaction words the environment has still to issue, the next one first (R5, R44; log 1). -/
  feed : List TxnWord
  /-- What the last transaction returned (log 2). -/
  result : Result
  /-- How many times `RESET` has drawn; the index of its next draws (log 5). -/
  draws : Nat
deriving DecidableEq, Repr

/-- Why the machine faults. -/
inductive Fault where
  /-- `Fault(IndexOutOfBuffer)`: a buffer index the model computes lies outside its buffer (R106).
  Raised by `MEMR`, `MEMW` and `RENDER`; unreachable, since an ill-formed configuration is refused
  first. Safe. -/
  | indexOutOfBuffer
deriving DecidableEq, Repr

/-- Why the model has no meaning for an instruction. The spec's own refusals (R105) are not these:
they have an effect and go on (log 8). -/
inductive Refusal where
  /-- An instruction without a meaning: raised by an arm of `exec` that is rejected by name. No arm
  is. Safe. -/
  | notModelled (mnemonic : String)
deriving DecidableEq, Repr

/-- The answer of an instruction. -/
abbrev Answer := Host.Outcome State Fault Refusal

/-- The state at power-on under a configuration and the draws `RAM_INIT`, `VRAM_INIT`, `HIRES_INIT`
(R27, R110). The selections, `S`, `VS` and `DE` have no value then: they are whatever `unset` has there,
and a claim about power-on is one for every `unset` (log 12). -/
def State.powerOn (cfg : Cfg) (ramInit vramInit hiresInit : Memory) (unset : State) : State :=
  { unset with
    cfg := cfg
    ram := ramInit
    vram := vramInit
    hires := hiresInit
    booted := false
    refused := false
    feed := []
    result := .nothing
    draws := 0 }

/-- The machine right after the `RESET` that follows power-on (R26, R109), with nothing listed in
its buffers (log 7) and the configuration `Cfg.fixture` (log 4). `S`, `VS` and `DE` hold that
`RESET`'s draws (log 6). -/
def State.reset : State where
  cfg := Cfg.fixture
  status := Config.resetStatus 0
  vs := Config.resetVs 0
  de := Config.resetDe 0
  selR1 := .rom
  selR2 := .rom
  selR3 := .rom
  selR4 := .ram
  selW1 := .ram
  selW2 := .vid
  selW3 := .hires
  selW4 := .ram
  ram := []
  vram := []
  hires := []
  booted := true
  refused := false
  feed := []
  result := .nothing
  draws := 1

end Sys2Proof.Machine
end

