-- ==== Sys2Proof/Machine/Ops.lean ====
section
/-! DEFINITION. The named operations over buffers and registers: reading and writing one byte of a
buffer, the well-formedness of a configuration (20_memory rule R40), the writes each part of the
block performs, taking the next input, and REFUSING, which is the block's one shared way to turn an
input down (60_exceptions rule R105). The block has no exception entry and no return from one
(rules R101, R104). -/

namespace Sys2Proof

/-! ### Bytes of a buffer -/

/-- What an index no pair lists reads as. The spec gives a draw (R27). DESIGN CHOICE, unsafe for a
claim about `State.reset`'s buffers alone (log 7): any contents are some list, so a claim about all
states is a claim about every draw. -/
def Machine.Memory.unlisted : Byte := 0x00#8

/-- The byte at an index. -/
def Machine.Memory.read : Machine.Memory → Nat → Byte
  | [], _ => Machine.Memory.unlisted
  | (b, w) :: rest, i => if b = i then w else Machine.Memory.read rest i

/-- A pair in front of a listing, unless it says what an unlisted index reads as. -/
def Machine.Memory.put (i : Nat) (v : Byte) (rest : Machine.Memory) : Machine.Memory :=
  if v = Machine.Memory.unlisted then rest else (i, v) :: rest

/-- The contents after one byte is written. -/
def Machine.Memory.write : Machine.Memory → Nat → Byte → Machine.Memory
  | [], i, v => Machine.Memory.put i v []
  | (b, w) :: rest, i, v =>
    if b < i then (b, w) :: Machine.Memory.write rest i v
    else if b = i then Machine.Memory.put i v rest
    else Machine.Memory.put i v ((b, w) :: rest)

/-- The pairs lie at or above `lo`, strictly rising, none equal to an unlisted byte. -/
def Machine.Memory.wfFrom : Nat → Machine.Memory → Bool
  | _, [] => true
  | lo, (b, w) :: rest =>
    decide (lo ≤ b) && w != Machine.Memory.unlisted && Machine.Memory.wfFrom (b + 1) rest

/-- The canonical form of a listing. -/
def Machine.Memory.wf (m : Machine.Memory) : Bool := Machine.Memory.wfFrom 0 m

/-- Every listed index is below `n`. -/
def Machine.Memory.within (n : Nat) (m : Machine.Memory) : Bool := m.all fun c => decide (c.1 < n)

/-! ### The configuration -/

/-- The image has exactly `n` bytes (R40 item 8). -/
def Image.fits (n : Nat) (im : Image) : Bool :=
  decide (im.bytes = n) && Machine.Memory.wf im.cells && Machine.Memory.within n im.cells

/-- The address lies in the window (R31). -/
def Window.covers (w : Window) (a : Nat) : Bool := decide (w.base ≤ a) && decide (a < w.base + w.size)

/-- The window is at least one byte wide and ends in the CPU's space (R40 item 1). -/
def Window.inSpace (w : Window) : Bool :=
  decide (1 ≤ w.size) && decide (w.base + w.size ≤ Config.ramSize)

/-- Two windows share no address (R40 item 2). -/
def Window.apart (v w : Window) : Bool :=
  decide (v.base + v.size ≤ w.base) || decide (w.base + w.size ≤ v.base)

/-- `ROM1_SIZE` or `ROM2_SIZE`. -/
def Cfg.romSize (c : Cfg) : RomBank → Nat
  | .rom1 => c.rom1Size
  | .rom2 => c.rom2Size

/-- `Buf(CHARROM)[i]` (R39). -/
def Cfg.charrom (c : Cfg) (i : Nat) : Byte := Machine.Memory.read c.charromImage.cells i

/-- The configuration is well-formed: the nine items of R40. -/
def Cfg.wf (c : Cfg) : Bool :=
  -- item 1
  c.win1.inSpace && c.win2.inSpace && c.win3.inSpace && c.win4.inSpace &&
  -- item 2
  c.win1.apart c.win2 && c.win1.apart c.win3 && c.win1.apart c.win4 &&
  c.win2.apart c.win3 && c.win2.apart c.win4 && c.win3.apart c.win4 &&
  -- item 3
  decide (0x2000 + c.win1.size ≤ c.rom1Size) &&
  -- item 4
  decide (c.romviewR2.off + c.win2.size ≤ c.romSize c.romviewR2.bank) &&
  decide (c.romviewR3.off + c.win3.size ≤ c.romSize c.romviewR3.bank) &&
  -- item 5
  decide (c.win2.size ≤ Config.vramSize) &&
  -- item 6
  decide (0x1000 ≤ c.hiresSize) && decide (c.win3.size ≤ c.hiresSize) &&
  -- item 7
  decide (c.hiresW4Off + c.win4.size ≤ c.hiresSize) &&
  -- item 8
  c.rom1Image.fits c.rom1Size && c.rom2Image.fits c.rom2Size &&
  c.charromImage.fits Config.charromSize &&
  -- item 9
  decide (0 < c.pixclk0) && decide (0 < c.pixclk1) && decide (c.ctrlPort ≠ c.statusPort)

end Sys2Proof

namespace Sys2Proof.Machine

/-! ### Buffers -/

/-- The physical buffers a CPU read can reach (R18, R34). -/
inductive ReadBuffer where
  | ram
  | rom1
  | rom2
deriving DecidableEq, Repr

/-- The physical buffers a CPU write can reach (R18, R35). -/
inductive WriteBuffer where
  | ram
  | vram
  | hires
deriving DecidableEq, Repr

/-- A ROM bank as a buffer. -/
def romBuffer : RomBank → ReadBuffer
  | .rom1 => .rom1
  | .rom2 => .rom2

/-- How many bytes a buffer has (R18). -/
def readSize (c : Cfg) : ReadBuffer → Nat
  | .ram => Config.ramSize
  | .rom1 => c.rom1Size
  | .rom2 => c.rom2Size

/-- How many bytes a buffer has (R18). -/
def writeSize (c : Cfg) : WriteBuffer → Nat
  | .ram => Config.ramSize
  | .vram => Config.vramSize
  | .hires => c.hiresSize

/-- `Buf(b)` for a read (R39). -/
def State.readable (s : State) : ReadBuffer → Memory
  | .ram => s.ram
  | .rom1 => s.cfg.rom1Image.cells
  | .rom2 => s.cfg.rom2Image.cells

/-- `Buf(b)` for a write (R39). -/
def State.writable (s : State) : WriteBuffer → Memory
  | .ram => s.ram
  | .vram => s.vram
  | .hires => s.hires

/-! ### Writes of the state -/

/-- The transaction returns `r`. -/
def State.giving (r : Result) (s : State) : State := { s with result := r }

/-- `Buf(b)[i] <- v` (R39): one byte of one buffer. -/
def State.poke (s : State) (b : WriteBuffer) (i : Nat) (v : Byte) : State :=
  match b with
  | .ram => { s with ram := Memory.write s.ram i v }
  | .vram => { s with vram := Memory.write s.vram i v }
  | .hires => { s with hires := Memory.write s.hires i v }

/-- `S <- d` (R10). -/
def State.latchStatus (d : Byte) (s : State) : State := { s with status := d }

/-- `VS <- l` (R11). -/
def State.latchVs (l : Bool) (s : State) : State := { s with vs := l }

/-- `DE <- l` (R12). -/
def State.latchDe (l : Bool) (s : State) : State := { s with de := l }

/-- The six selections a control byte writes, and no other (R71). -/
def State.select (r1 : SelR1) (r2 r3 : SelRom) (w2 : SelVid) (w3 w4 : SelHires) (s : State) : State :=
  { s with selR1 := r1, selR2 := r2, selR3 := r3, selW2 := w2, selW3 := w3, selW4 := w4 }

/-- What `RESET` writes (R109): the eight selections, the three draws, `booted`. -/
def State.machineReset (s : State) : State :=
  { s with
    selR1 := .rom, selR2 := .rom, selR3 := .rom, selR4 := .ram
    selW1 := .ram, selW2 := .vid, selW3 := .hires, selW4 := .ram
    status := Config.resetStatus s.draws
    vs := Config.resetVs s.draws
    de := Config.resetDe s.draws
    booted := true
    draws := s.draws + 1 }

/-! ### Refusing and accepting -/

/-- The state after an input is turned down: `refused` is 1 and no value is returned (R105). -/
def State.turnDown (why : RefuseReason) (s : State) : State :=
  { s with refused := true, result := .refused why }

/-- `raise Refuse(why)`: `refused <- 1`, no other state change (R105). The machine goes on (log 8). -/
def State.refuse (why : RefuseReason) (s : State) : Answer := .next (s.turnDown why)

/-- What a transaction answers under a well-formed configuration; under an ill-formed one it is
refused (R40, R105). -/
def State.accepted (s : State) (answer : Answer) : Answer :=
  if s.cfg.wf then answer else s.refuse .cfgIllFormed

/-- `require booted = 1`: what a transaction answers after a `RESET`; before one it is refused
(R111). -/
def State.whenBooted (s : State) (answer : Answer) : Answer :=
  s.accepted (if s.booted then answer else s.refuse .notBooted)

/-- The reason for which an input that spells no transaction is refused (R62, R105). -/
def rejectReason : Reject → RefuseReason
  | .reservedKind => .reservedKind
  | .nonzeroMbz => .nonzeroMbz

/-- An input that spells no transaction is refused (R62). -/
def State.rejectInput (why : Reject) (s : State) : Answer :=
  s.accepted (s.refuse (rejectReason why))

/-! ### The next input -/

/-- The inputs still to come are `rest`. -/
def State.awaiting (rest : List TxnWord) (s : State) : State := { s with feed := rest }

/-- The next input, and the state once the block has taken it (R44; log 1). -/
def State.takeInput (s : State) : Option (TxnWord × State) :=
  match s.feed with
  | [] => none
  | t :: rest => some (t, s.awaiting rest)

/-- The word is the next one the environment issues (log 1). -/
def State.feedFirst (t : TxnWord) (s : State) : State := s.awaiting (t :: s.feed)

end Sys2Proof.Machine
end

