-- ==== Sys2Proof/Machine/Flags.lean ====
section
/-! DEFINITION. What the parts of the block read out of the status byte and the line latches
(10_state rule R10, 30_encoding rule R52, 41_status_latch rules R78, R79). The block has no
condition-code flags (10_state rule R22). -/

namespace Sys2Proof.Machine

/-- The status byte a CPU reads, STAT8: `(S & 0x2F) | (VS << 4) | 0xC0` (R52, R79). -/
def statusRead (status : Byte) (vs : Bool) : Byte :=
  (status &&& 0x2F#8) ||| ((BitVec.ofBool vs).zeroExtend 8 <<< 4) ||| 0xC0#8

/-- The pixel-clock select output `CLKSEL = S[2]` (R78). Before the first `RESET`, when `S` has no value,
it is bit 2 of whatever the field holds: DESIGN CHOICE, no value is claimed of it then (log 12). -/
def State.clksel (s : State) : Bool := s.status.getLsbD 2

/-- The CRT controller's pixel clock in Hz (R78, D13); before the first `RESET` as `clksel` (log 12). -/
def State.pixelClock (s : State) : Nat := if s.clksel then s.cfg.pixclk1 else s.cfg.pixclk0

/-- The alternate colour set is selected: `S[3]` (R10, R87). -/
def State.altColours (s : State) : Bool := s.status.getLsbD 3

end Sys2Proof.Machine
end

