-- ==== Sys2Proof/Machine/Operands.lean ====
section
/-! DEFINITION. The operand forms: resolving a CPU address through the windows (20_memory rules R31
to R37), and the fields of a video cell (30_encoding rules R53 to R59). -/

namespace Sys2Proof.Machine

/-! ### Windows -/

/-- A logical window's number, for both directions (R31). -/
inductive Win where
  | w1
  | w2
  | w3
  | w4
deriving DecidableEq, Repr

/-- The address range of a window (R31). -/
def winRange (c : Cfg) : Win → Window
  | .w1 => c.win1
  | .w2 => c.win2
  | .w3 => c.win3
  | .w4 => c.win4

/-- The window an address lies in, none in the fixed region (R31, R32). At most one covers it when the
configuration is well-formed (R40 item 2). -/
def windowOf (c : Cfg) (a : Nat) : Option Win :=
  if c.win1.covers a then some .w1
  else if c.win2.covers a then some .w2
  else if c.win3.covers a then some .w3
  else if c.win4.covers a then some .w4
  else none

/-- The read list entry of a ROM-or-RAM selection of window 2 or 3 (R34). -/
def romEntry (w : Window) (v : RomView) : SelRom → ReadBuffer × Nat
  | .ram => (.ram, w.base)
  | .rom => (romBuffer v.bank, v.off)

/-- The (buffer, base offset) pair of each read window's selection: the read lists of the Bank Table
(R34, R36) and an output of the block (R38). Before the first `RESET`, when the selections have no value,
it is the pair of whatever they hold: DESIGN CHOICE, no value is claimed of it then (log 12). -/
def State.readPair (s : State) : Win → ReadBuffer × Nat
  | .w1 =>
    match s.selR1 with
    | .ram => (.ram, s.cfg.win1.base)
    | .rom => (.rom1, 0x0000)
    | .romHi => (.rom1, 0x2000)
  | .w2 => romEntry s.cfg.win2 s.cfg.romviewR2 s.selR2
  | .w3 => romEntry s.cfg.win3 s.cfg.romviewR3 s.selR3
  | .w4 =>
    match s.selR4 with
    | .ram => (.ram, s.cfg.win4.base)

/-- The write list entry of a RAM-or-HIRES selection of window 3 or 4 (R35). -/
def hiresEntry (w : Window) (off : Nat) : SelHires → WriteBuffer × Nat
  | .ram => (.ram, w.base)
  | .hires => (.hires, off)

/-- The (buffer, base offset) pair of each write window's selection: the write lists of the Bank Table
(R35, R36) and an output of the block (R38); before the first `RESET` as `readPair` (log 12). -/
def State.writePair (s : State) : Win → WriteBuffer × Nat
  | .w1 =>
    match s.selW1 with
    | .ram => (.ram, s.cfg.win1.base)
  | .w2 =>
    match s.selW2 with
    | .ram => (.ram, s.cfg.win2.base)
    | .vid => (.vram, 0x0000)
  | .w3 => hiresEntry s.cfg.win3 0x0000 s.selW3
  | .w4 => hiresEntry s.cfg.win4 s.cfg.hiresW4Off s.selW4

/-- `Resolve(a, R)` (R37). -/
def State.resolveRead (s : State) (a : CpuAddr) : ReadBuffer × Nat :=
  match windowOf s.cfg a.toNat with
  | some k => ((s.readPair k).1, (s.readPair k).2 + (a.toNat - (winRange s.cfg k).base))
  | none => (.ram, a.toNat)

/-- `Resolve(a, W)` (R37). -/
def State.resolveWrite (s : State) (a : CpuAddr) : WriteBuffer × Nat :=
  match windowOf s.cfg a.toNat with
  | some k => ((s.writePair k).1, (s.writePair k).2 + (a.toNat - (winRange s.cfg k).base))
  | none => (.ram, a.toNat)

/-! ### Video cells -/

/-- The cell of column `x` of a row: `(base + x) mod 2048` (R56, R85). -/
def cellAddr (base : BitVec 16) (x : Nat) : Nat := (base.toNat + x) % 2048

/-- `attr[7:4]`, the foreground colour number (R53). -/
def attrFg (attr : Byte) : BitVec 4 := attr.extractLsb' 4 4

/-- `attr[3:1]`, the background colour number (R53). -/
def attrBg (attr : Byte) : BitVec 3 := attr.extractLsb' 1 3

/-- The hi-res override applies: `attr[0] = 1` and `chr[7] = 1` (R54, R89). -/
def hiresCell (chr attr : Byte) : Bool := attr.getLsbD 0 && chr.getLsbD 7

/-- The glyph index `{chr[7:0], ra[3:0]}` (R55). -/
def glyphIndex (chr : Byte) (ra : BitVec 4) : GlyphIndex := chr ++ ra

/-- The foreground palette index: `color_base + attr[7:4]`, colour base 16 in the alternate set
(R59, R87). -/
def fgIndex (alt : Bool) (fg : BitVec 4) : PalIndex :=
  ⟨(if alt then 16 else 0) + fg.toNat, by have := fg.isLt; split <;> omega⟩

/-- The background palette index: `32 + attr[3:1]` (R59, R88). -/
def bgIndex (bg : BitVec 3) : PalIndex := ⟨32 + bg.toNat, by have := bg.isLt; omega⟩

/-- Column `x` is the cursor column (R90, D19). -/
def isCursor (cur : Option (BitVec 16)) (x : Nat) : Bool :=
  match cur with
  | some c => c.toNat == x
  | none => false

/-- The eight pixels of a glyph byte, bit 7 leftmost (R57, R91). -/
def expandGlyph (g : Byte) (fg bg : PalIndex) : List PalIndex :=
  (List.range 8).map fun i => if g.getLsbD (7 - i) then fg else bg

end Sys2Proof.Machine
end

