-- ==== Sys2Proof/Machine/Palette.lean ====
section
/-! DEFINITION. The Palette: 40 colours, a function of the character ROM (43_palette rules R96 to
R100), and the transaction `PALINIT`. -/

namespace Sys2Proof.Machine

/-- `w * code[i]` (R98). -/
def weighBit (code : Byte) (i w : Nat) : Nat := if code.getLsbD i then w else 0

/-- `Weigh(code)`: the weighted sums of a colour code (R58, R98, D15). Each is at most 255. -/
def weigh (code : Byte) : Colour where
  red := BitVec.ofNat 8 (weighBit code 0 38 + weighBit code 1 73 + weighBit code 2 144)
  blue := BitVec.ofNat 8 (weighBit code 3 38 + weighBit code 4 73 + weighBit code 5 144)
  green := BitVec.ofNat 8 (weighBit code 6 85 + weighBit code 7 170)

/-- The eight background colours, in order (R99, D16). -/
def backgroundColour : Nat → Colour
  | 0 => { red := 0, green := 0, blue := 0 }
  | 1 => { red := 255, green := 0, blue := 0 }
  | 2 => { red := 0, green := 0, blue := 255 }
  | 3 => { red := 255, green := 0, blue := 255 }
  | 4 => { red := 0, green := 255, blue := 0 }
  | 5 => { red := 255, green := 255, blue := 0 }
  | 6 => { red := 0, green := 255, blue := 255 }
  | _ => { red := 255, green := 255, blue := 255 }

/-- `Palette(i)`: entries 0 to 31 from the character ROM's colour codes (R97), entries 32 to 39 fixed
(R99). -/
def palette (c : Cfg) (i : PalIndex) : Colour :=
  if i.val < 32 then weigh (c.charrom (0x1000 + i.val)) else backgroundColour (i.val - 32)

/-- `PALINIT` (R96): no state is written; accepted before and after `RESET`. -/
def execPalinit (s : State) : Answer := s.accepted (.next (s.giving .nothing))

end Sys2Proof.Machine
end

