-- ==== Sys2Proof/Machine/Raster.lean ====
section
/-! DEFINITION. The Raster Compositor (42_raster_compositor rules R84 to R95): one scanline a call,
from `VRAM`, `HIRES` and the character ROM by index, never through a window (20_memory rule R30). -/

namespace Sys2Proof.Machine

/-- `VRAM[mem]` of column `x`: the character code (R86). -/
def State.cellChr (s : State) (base : BitVec 16) (x : Nat) : Byte :=
  Memory.read s.vram (cellAddr base x)

/-- `VRAM[mem + 0x800]` of column `x`: the attribute (R86). -/
def State.cellAttr (s : State) (base : BitVec 16) (x : Nat) : Byte :=
  Memory.read s.vram (cellAddr base x + 0x800)

/-- The glyph byte of a cell before the cursor (R89). -/
def State.glyphByte (s : State) (chr attr : Byte) (ra : BitVec 4) : Byte :=
  if hiresCell chr attr then Memory.read s.hires (glyphIndex chr ra).toNat
  else s.cfg.charrom (glyphIndex chr ra).toNat

/-- The complement at the cursor column, the byte itself elsewhere (R90). -/
def underCursor (cursor : Bool) (g : Byte) : Byte := if cursor then ~~~g else g

/-- The eight palette indices of column `x` (R85 to R91). -/
def State.cellPixels (s : State) (base : BitVec 16) (ra : BitVec 4) (cur : Option (BitVec 16))
    (x : Nat) : List PalIndex :=
  expandGlyph
    (underCursor (isCursor cur x) (s.glyphByte (s.cellChr base x) (s.cellAttr base x) ra))
    (fgIndex s.altColours (attrFg (s.cellAttr base x)))
    (bgIndex (attrBg (s.cellAttr base x)))

/-- The index row `idx[0 .. 8n-1]`, cells left to right (R84, R91). -/
def State.indexRow (s : State) (base : BitVec 16) (ra : BitVec 4) (n : Nat)
    (cur : Option (BitVec 16)) : List PalIndex :=
  (List.range n).flatMap (s.cellPixels base ra cur)

/-- The glyph index of column `x` is inside the buffer it reads (R106). Every other index of a row is
inside its buffer whatever the configuration: `mem + 0x800 < 0x1000`, `gi < 0x1020` (R95). -/
def State.cellInside (s : State) (base : BitVec 16) (ra : BitVec 4) (x : Nat) : Bool :=
  !hiresCell (s.cellChr base x) (s.cellAttr base x) ||
    decide ((glyphIndex (s.cellChr base x) ra).toNat < s.cfg.hiresSize)

/-- Every index of the row is inside its buffer. The first half is what R40 item 6 asks for; with it no
cell has to be looked at, since a glyph index is 12 bits wide (R55). -/
def State.rowInside (s : State) (base : BitVec 16) (ra : BitVec 4) (n : Nat) : Bool :=
  decide (0x1000 ≤ s.cfg.hiresSize) || (List.range n).all (s.cellInside base ra)

/-- The row a render returns: the indices, and the same resolved through the palette (R92). -/
def State.rowResult (s : State) (base : BitVec 16) (ra : BitVec 4) (n : Nat)
    (cur : Option (BitVec 16)) : Result :=
  .row (s.indexRow base ra n cur) ((s.indexRow base ra n cur).map (palette s.cfg))

/-- `RENDER base, ra, n, cur` (R84): returns the rows and writes nothing (R94). -/
def execRender (base : BitVec 16) (ra : BitVec 4) (n : BitVec 16) (cur : Option (BitVec 16))
    (s : State) : Answer :=
  s.whenBooted
    (if s.rowInside base ra n.toNat then .next (s.giving (s.rowResult base ra n.toNat cur))
     else .fault .indexOutOfBuffer)

end Sys2Proof.Machine
end

