-- ==== Sys2Proof/Machine/BankController.lean ====
section
/-! DEFINITION. The Bank Controller (40_bank_controller): `apply_control_byte` and its five decode
classes, and the two CPU memory transactions. -/

namespace Sys2Proof.Machine

/-! ### apply_control_byte -/

/-- Case 1, the full-RAM configuration (R66). -/
def selectFullRam (s : State) : State := s.select .ram .ram .ram .ram .ram .ram

/-- Case 2: ROM reads, special write targets, window 4 writes into hi-res RAM (R67). -/
def selectRomHiresW4 (s : State) : State := s.select .rom .rom .rom .vid .hires .hires

/-- Case 3: as case 2, but window 4 writes go to RAM (R68). -/
def selectRomRamW4 (s : State) : State := s.select .rom .rom .rom .vid .hires .ram

/-- Case 4, the ROM-half override: only `selR[1]` is written (R69). -/
def overrideRomHi (s : State) : State := { s with selR1 := .romHi }

/-- `apply_control_byte(d)`: the source's guarded chain, then its override (R65). -/
def applyControlByte (d : Byte) (s : State) : State :=
  let chosen :=
    if d.getLsbD 1 then selectFullRam s
    else if d.getLsbD 0 then selectRomHiresW4 s
    else selectRomRamW4 s
  if !d.getLsbD 1 && d.getLsbD 5 then overrideRomHi chosen else chosen

/-- The decode class `CTRL_FULLRAM` of a control byte, run inside `IOW_CTRL` and by no input alone
(R66; log 11). -/
def execCtrlFullram (s : State) : Answer := s.accepted (.next ((selectFullRam s).giving .nothing))

/-- The decode class `CTRL_ROM_HIRESW4` of a control byte, run inside `IOW_CTRL` and by no input alone
(R67; log 11). -/
def execCtrlRomHiresw4 (s : State) : Answer :=
  s.accepted (.next ((selectRomHiresW4 s).giving .nothing))

/-- The decode class `CTRL_ROM_HIRESW4_HI` of a control byte, run inside `IOW_CTRL` and by no input alone
(R67, R69; log 11). -/
def execCtrlRomHiresw4Hi (s : State) : Answer :=
  s.accepted (.next ((overrideRomHi (selectRomHiresW4 s)).giving .nothing))

/-- The decode class `CTRL_ROM_RAMW4` of a control byte, run inside `IOW_CTRL` and by no input alone
(R68; log 11). -/
def execCtrlRomRamw4 (s : State) : Answer :=
  s.accepted (.next ((selectRomRamW4 s).giving .nothing))

/-- The decode class `CTRL_ROM_RAMW4_HI` of a control byte, run inside `IOW_CTRL` and by no input alone
(R68, R69; log 11). -/
def execCtrlRomRamw4Hi (s : State) : Answer :=
  s.accepted (.next ((overrideRomHi (selectRomRamW4 s)).giving .nothing))

/-! ### CPU memory transactions -/

/-- `MemRead(a, 1)` (R39), answered with the byte; an index outside its buffer faults (R106). -/
def State.memRead (s : State) (a : CpuAddr) : Answer :=
  if (s.resolveRead a).2 < readSize s.cfg (s.resolveRead a).1 then
    .next (s.giving (.byte (Memory.read (s.readable (s.resolveRead a).1) (s.resolveRead a).2)))
  else .fault .indexOutOfBuffer

/-- `MemWrite(a, 1, v)` (R39): one byte; an index outside its buffer faults before anything is written
(R106). -/
def State.memWrite (s : State) (a : CpuAddr) (v : Byte) : Answer :=
  if (s.resolveWrite a).2 < writeSize s.cfg (s.resolveWrite a).1 then
    .next ((s.poke (s.resolveWrite a).1 (s.resolveWrite a).2 v).giving .nothing)
  else .fault .indexOutOfBuffer

/-- `MEMR a` (R73). -/
def execMemr (a : CpuAddr) (s : State) : Answer := s.whenBooted (s.memRead a)

/-- `MEMW a, d` (R74). -/
def execMemw (a : CpuAddr) (d : Byte) (s : State) : Answer := s.whenBooted (s.memWrite a d)

end Sys2Proof.Machine
end

