-- ==== Sys2Proof/Machine/StatusLatch.lean ====
section
/-! DEFINITION. The System Status Latch (41_status_latch): the control write, the status read and the
two line pushes; and `RESET` (70_reset_and_hazards rule R109). -/

namespace Sys2Proof.Machine

/-- `RESET` (R109): accepted at any time; the buffers and `refused` are not written. -/
def execReset (s : State) : Answer := s.accepted (.next (s.machineReset.giving .nothing))

/-- `IOW_CTRL d` (R77): `S <- d`, then `apply_control_byte(d)`. -/
def execIowCtrl (d : Byte) (s : State) : Answer :=
  s.whenBooted (.next ((applyControlByte d (s.latchStatus d)).giving .nothing))

/-- `IOR_STATUS` (R79, R80): returns STAT8 and changes nothing. -/
def execIorStatus (s : State) : Answer :=
  s.whenBooted (.next (s.giving (.byte (statusRead s.status s.vs))))

/-- `VSYNC l` (R81). -/
def execVsync (l : Bool) (s : State) : Answer :=
  s.whenBooted (.next ((s.latchVs l).giving .nothing))

/-- `DE l` (R82). -/
def execDe (l : Bool) (s : State) : Answer :=
  s.whenBooted (.next ((s.latchDe l).giving .nothing))

end Sys2Proof.Machine
end

