-- ==== Sys2Proof/Machine/Dispatch.lean ====
section
/-! DEFINITION. The dispatch: one arm per constructor of `Instr`, each one direct call of its meaning.
The operand of a CTRL8 row is the byte that put it in its class; the class alone decides the effect
(30_encoding rule R51). -/

namespace Sys2Proof.Machine

def exec (i : Instr) (s : State) : Host.Outcome State Fault Refusal :=
  match i with
  | .ctrlFullram _ => Sys2Proof.Machine.execCtrlFullram s
  | .ctrlRomHiresw4 _ => Sys2Proof.Machine.execCtrlRomHiresw4 s
  | .ctrlRomHiresw4Hi _ => Sys2Proof.Machine.execCtrlRomHiresw4Hi s
  | .ctrlRomRamw4 _ => Sys2Proof.Machine.execCtrlRomRamw4 s
  | .ctrlRomRamw4Hi _ => Sys2Proof.Machine.execCtrlRomRamw4Hi s
  | .reset => Sys2Proof.Machine.execReset s
  | .iowCtrl d => Sys2Proof.Machine.execIowCtrl d s
  | .iorStatus => Sys2Proof.Machine.execIorStatus s
  | .memr a => Sys2Proof.Machine.execMemr a s
  | .memw a d => Sys2Proof.Machine.execMemw a d s
  | .vsync l => Sys2Proof.Machine.execVsync l s
  | .de l => Sys2Proof.Machine.execDe l s
  | .render base ra n cur => Sys2Proof.Machine.execRender base ra n cur s
  | .palinit => Sys2Proof.Machine.execPalinit s

end Sys2Proof.Machine
end

