-- ==== Sys2Proof/Machine/Perform.lean ====
section
/-! DEFINITION. What the block does with one input: any 64-bit word. -/

namespace Sys2Proof.Machine

/-- The meaning of the transaction a word spells, or the refusal of a word that spells none (R5, R62). -/
def perform (t : TxnWord) (s : State) : Answer :=
  match decodeTxn t with
  | .ok i => exec i s
  | .error why => s.rejectInput why

end Sys2Proof.Machine
end

