-- ==== Sys2Proof/Machine/Step.lean ====
section
/-! DEFINITION. One step: the block takes the environment's next input and completes it before the
next one (20_memory rule R44). With no input to take, nothing happens (log 1). -/

namespace Sys2Proof.Machine

/-- One step of the machine. -/
def step (s : State) : Host.Outcome State Fault Refusal :=
  match s.takeInput with
  | none => .next s
  | some (t, s') => perform t s'

/-- `s` with the opcode-table word `w` of `nbits` bits as the next input (log 1); a control byte comes in
the `IOW_CTRL` that carries it (log 11). A width no row has leaves the state as it is. -/
def State.withFetchWord (s : State) (nbits w : Nat) : State :=
  match codeOfBits nbits w with
  | some code => s.feedFirst (carrier code)
  | none => s

end Sys2Proof.Machine
end

