-- ==== Sys2Proof/Machine/Assembly.lean ====
section
/-! DEFINITION. The transaction assembly of 30_encoding rule R63: one transaction a line, as text to an
instruction and back. It is the spec's own notation; nothing in the hardware corresponds to it. The five
decode classes of a control byte have no line (rule R63 lists the nine transactions alone). How much
space stands between the parts of a line the rule leaves open (log 20). -/

namespace Sys2Proof.Assembly

/-- A line of text. -/
abbrev Text := List Char

/-! ### Numbers -/

/-- The signs of the values 0 to 15, in order. -/
def signs : Text := "0123456789ABCDEF".toList

/-- The same with small letters; either is read (log 20). -/
def smallSigns : Text := "0123456789abcdef".toList

/-- The value of a digit: its place among the signs. -/
def digitValue (c : Char) : Option Nat := (signs.idxOf? c).or (smallSigns.idxOf? c)

/-- The value of a run of digits in a base, after the digits already read. -/
def digitsValue (radix : Nat) : Nat → Text → Option Nat
  | acc, [] => some acc
  | acc, c :: rest =>
    match digitValue c with
    | some d => if d < radix then digitsValue radix (radix * acc + d) rest else none
    | none => none

/-- A number: hexadecimal with `0x`, or decimal (R63). -/
def number : Text → Option Nat
  | [] => none
  | '0' :: 'x' :: c :: rest => digitsValue 16 0 (c :: rest)
  | c :: rest => digitsValue 10 0 (c :: rest)

/-- A number of `k` bits. -/
def field (k : Nat) (t : Text) : Option (BitVec k) :=
  match number t with
  | some v => if v < 2 ^ k then some (BitVec.ofNat k v) else none
  | none => none

/-- A line level, 0 or 1 (R63). -/
def level (t : Text) : Option Bool := (field 1 t).map fun b => b.getLsbD 0

/-- The cursor operand of `RENDER`: a number, or `none` (R63). -/
def cursor (t : Text) : Option (Option (BitVec 16)) :=
  if t = ['n', 'o', 'n', 'e'] then some none else (field 16 t).map some

/-! ### Lines -/

/-- Spaces and tabs. -/
def isBlank (c : Char) : Bool := c == ' ' || c == '\t'

/-- The text without the blanks at its two ends. -/
def trim (t : Text) : Text := ((t.dropWhile isBlank).reverse.dropWhile isBlank).reverse

/-- The parts between the commas. -/
def parts : Text → List Text
  | [] => [[]]
  | c :: rest =>
    if c = ',' then [] :: parts rest
    else
      match parts rest with
      | [] => [[c]]
      | p :: ps => (c :: p) :: ps

/-- The line up to an arrow: what follows `->` is an expected value, not part of the encoding (R63). -/
def beforeArrow : Text → Text
  | [] => []
  | c :: rest => if c = '-' ∧ rest.head? = some '>' then [] else c :: beforeArrow rest

/-- The operands of a line, after its mnemonic. -/
def operands (t : Text) : List Text :=
  if trim t = [] then [] else (parts t).map trim

/-- The transaction a mnemonic and its operands spell (R63). -/
def transaction (mnemonic : Text) (ops : List Text) : Option Instr :=
  match mnemonic, ops with
  | ['R', 'E', 'S', 'E', 'T'], [] => some .reset
  | ['I', 'O', 'W', '_', 'C', 'T', 'R', 'L'], [d] => (field 8 d).map .iowCtrl
  | ['I', 'O', 'R', '_', 'S', 'T', 'A', 'T', 'U', 'S'], [] => some .iorStatus
  | ['M', 'E', 'M', 'R'], [a] => (field 16 a).map .memr
  | ['M', 'E', 'M', 'W'], [a, d] =>
    (field 16 a).bind fun a => (field 8 d).map fun d => .memw a d
  | ['V', 'S', 'Y', 'N', 'C'], [l] => (level l).map .vsync
  | ['D', 'E'], [l] => (level l).map .de
  | ['R', 'E', 'N', 'D', 'E', 'R'], [base, ra, n, cur] =>
    (field 16 base).bind fun base => (field 4 ra).bind fun ra =>
      (field 16 n).bind fun n => (cursor cur).map fun cur => .render base ra n cur
  | ['P', 'A', 'L', 'I', 'N', 'I', 'T'], [] => some .palinit
  | _, _ => none

/-- The transaction a line spells, none where it spells none (R63). -/
def readLine (line : Text) : Option Instr :=
  let code := trim (beforeArrow line)
  transaction (code.takeWhile fun c => !isBlank c) (operands (code.dropWhile fun c => !isBlank c))

/-! ### Printing -/

/-- The sign of a digit in base sixteen. -/
def digit (v : BitVec 4) : Char := signs.getD v.toNat '0'

/-- Four bits as a number of the syntax. -/
def printNibble (v : BitVec 4) : Text := ['0', 'x', digit v]

/-- A byte as a number of the syntax. -/
def printByte (v : Byte) : Text := ['0', 'x', digit (v.extractLsb' 4 4), digit (v.extractLsb' 0 4)]

/-- Sixteen bits as a number of the syntax. -/
def printWord (v : BitVec 16) : Text :=
  ['0', 'x', digit (v.extractLsb' 12 4), digit (v.extractLsb' 8 4), digit (v.extractLsb' 4 4),
    digit (v.extractLsb' 0 4)]

/-- A line level as a number of the syntax. -/
def printLevel (l : Bool) : Text := if l then ['1'] else ['0']

/-- The cursor operand of `RENDER`. -/
def printCursor : Option (BitVec 16) → Text
  | some c => printWord c
  | none => ['n', 'o', 'n', 'e']

/-- The line of a transaction, none for a decode class of a control byte. -/
def printLine : Instr → Option Text
  | .ctrlFullram _ => none
  | .ctrlRomHiresw4 _ => none
  | .ctrlRomHiresw4Hi _ => none
  | .ctrlRomRamw4 _ => none
  | .ctrlRomRamw4Hi _ => none
  | .reset => some "RESET".toList
  | .iowCtrl d => some ("IOW_CTRL ".toList ++ printByte d)
  | .iorStatus => some "IOR_STATUS".toList
  | .memr a => some ("MEMR ".toList ++ printWord a)
  | .memw a d => some ("MEMW ".toList ++ printWord a ++ ", ".toList ++ printByte d)
  | .vsync l => some ("VSYNC ".toList ++ printLevel l)
  | .de l => some ("DE ".toList ++ printLevel l)
  | .render base ra n cur =>
    some ("RENDER ".toList ++ printWord base ++ ", ".toList ++ printNibble ra ++
      ", ".toList ++ printWord n ++ ", ".toList ++ printCursor cur)
  | .palinit => some "PALINIT".toList

end Sys2Proof.Assembly
end

