-- ==== Sys2Proof/Safety.lean ====
section
/-! DEFINITION. What the statements speak of: the states in which a transaction is carried out, the
invariant of the buffers, and the agreement of the selections with the status byte. -/

namespace Sys2Proof.Machine

/-- The configuration is well-formed and a `RESET` has been taken: nothing but an undecodable word is
refused (R105). -/
def State.Ready (s : State) : Prop := s.cfg.wf = true ∧ s.booted = true

/-- A buffer's listing is canonical and lists no index outside its `n` bytes. -/
def Memory.Fits (n : Nat) (m : Memory) : Prop := Memory.wf m = true ∧ Memory.within n m = true

/-- The three buffers hold listings of their own sizes (R9, R18). -/
def State.BuffersFit (s : State) : Prop :=
  Memory.Fits Config.ramSize s.ram ∧ Memory.Fits Config.vramSize s.vram ∧
    Memory.Fits s.cfg.hiresSize s.hires

/-- The six switchable selections are those the byte `d` selects, told by its bits 0, 1 and 5 alone
(R25, R65). -/
def State.SelectedBy (d : Byte) (s : State) : Prop :=
  s.selR1 = (if d.getLsbD 1 then .ram else if d.getLsbD 5 then .romHi else .rom) ∧
  s.selR2 = (if d.getLsbD 1 then .ram else .rom) ∧
  s.selR3 = (if d.getLsbD 1 then .ram else .rom) ∧
  s.selW2 = (if d.getLsbD 1 then .ram else .vid) ∧
  s.selW3 = (if d.getLsbD 1 then .ram else .hires) ∧
  s.selW4 = (if d.getLsbD 1 then .ram else if d.getLsbD 0 then .hires else .ram)

/-- The eight selections of `RESET` (R26). -/
def State.ResetSelections (s : State) : Prop :=
  s.selR1 = .rom ∧ s.selR2 = .rom ∧ s.selR3 = .rom ∧ s.selR4 = .ram ∧
  s.selW1 = .ram ∧ s.selW2 = .vid ∧ s.selW3 = .hires ∧ s.selW4 = .ram

/-- The eight selections of the two states are the same. -/
def State.SameSelections (s t : State) : Prop :=
  t.selR1 = s.selR1 ∧ t.selR2 = s.selR2 ∧ t.selR3 = s.selR3 ∧ t.selR4 = s.selR4 ∧
  t.selW1 = s.selW1 ∧ t.selW2 = s.selW2 ∧ t.selW3 = s.selW3 ∧ t.selW4 = s.selW4

/-- The two states are the same but for what has no value before the first `RESET`: the selections, `S`,
`VS` and `DE` (R27, R110; log 12). -/
def State.SameButUnset (s t : State) : Prop :=
  t = { s with
    status := t.status, vs := t.vs, de := t.de
    selR1 := t.selR1, selR2 := t.selR2, selR3 := t.selR3, selR4 := t.selR4
    selW1 := t.selW1, selW2 := t.selW2, selW3 := t.selW3, selW4 := t.selW4 }

end Sys2Proof.Machine

namespace Sys2Proof

/-- The instruction is one of the nine interface transactions (R5); the others are the Bank
Controller's decode classes of a control byte. -/
def Instr.isTransaction : Instr → Bool
  | .ctrlFullram _ => false
  | .ctrlRomHiresw4 _ => false
  | .ctrlRomHiresw4Hi _ => false
  | .ctrlRomRamw4 _ => false
  | .ctrlRomRamw4Hi _ => false
  | .reset => true
  | .iowCtrl _ => true
  | .iorStatus => true
  | .memr _ => true
  | .memw _ _ => true
  | .vsync _ => true
  | .de _ => true
  | .render _ _ _ _ => true
  | .palinit => true

/-- The must-be-zero bits of each kind of transaction word (R61). -/
def mustBeZero : Nat → TxnWord
  | 0 => 0x00FFFFFFFFFFFFFF#64
  | 1 => 0x00FFFFFFFFFFFF00#64
  | 2 => 0x00FFFFFFFFFFFFFF#64
  | 3 => 0x00FFFFFFFF0000FF#64
  | 4 => 0x00FFFFFFFF000000#64
  | 5 => 0x00FFFFFFFFFFFFFE#64
  | 6 => 0x00FFFFFFFFFFFFFE#64
  | 7 => 0x00E0000000000000#64
  | 8 => 0x00FFFFFFFFFFFFFF#64
  | _ => 0#64

end Sys2Proof
end

