-- ==== Sys2Proof/Certificates/Slice0/Obligations.lean ====
section
/-! DEFINITION. The statements about the model. `result` is the port on which the model gives what the
block's interface returns (00_scope rule R6; log 2), `feed` the inputs the environment has still to
issue (log 1), `draws` the counter of the free values of `RESET` (log 5); no statement rests on the
value of a draw. `State.Ready` says that the configuration is well-formed and a `RESET` has been
taken. -/

open Sys2Proof Sys2Proof.Machine

/-! ### Inputs: decoding, encoding, the step -/

/-- A step is the meaning of the transaction the next word spells, on the state that has taken the word,
and with no word to take nothing happens (R44; the input list is the model's, log 1). A control byte runs
in the step of the `IOW_CTRL` that carries it: the step is its class on the state that has stored it
(00_scope section 4; log 11). -/
def Obligations.StepRunsDecodedInstruction : Prop :=
  (∀ (s : State) (t : TxnWord) (rest : List TxnWord) (i : Instr),
    s.feed = t :: rest → decodeTxn t = .ok i → i.wf = true →
      step s = exec i { s with feed := rest }) ∧
  (∀ s : State, s.feed = [] → step s = .next s) ∧
  (∀ (s : State) (d : Byte) (rest : List TxnWord), s.Ready → s.feed = carrier (.ctrl d) :: rest →
    step s = exec (decodeCtrl d) { s with feed := rest, status := d })

/-- R5: the words the block takes are those of the nine transactions, and any other is refused; so the
decode class of a control byte is run by no word alone. -/
def Obligations.InputsAreTheNineTransactions : Prop :=
  (∀ (t : TxnWord) (i : Instr), decodeTxn t = .ok i → i.isTransaction = true) ∧
  (∀ i : Instr, i.isTransaction = true → ∃ t : TxnWord, decodeTxn t = .ok i) ∧
  (∀ (s : State) (t : TxnWord) (rest : List TxnWord), s.feed = t :: rest →
    (∀ i : Instr, i.isTransaction = true → decodeTxn t ≠ .ok i) →
      ∃ why, step s = .next { s with feed := rest, refused := true, result := .refused why } ∧
        (s.cfg.wf = false ∧ why = .cfgIllFormed ∨
          decodeTxn t = .error .reservedKind ∧ why = .reservedKind ∨
          decodeTxn t = .error .nonzeroMbz ∧ why = .nonzeroMbz))

/-- R62, with the reason R105 gives each of the two words. -/
def Obligations.UndecodableWordIsRefused : Prop :=
  (∀ t : TxnWord, 0x09 ≤ t.toNat / 2 ^ 56 → decodeTxn t = .error .reservedKind) ∧
  (∀ t : TxnWord, t.toNat / 2 ^ 56 ≤ 0x08 → t &&& mustBeZero (t.toNat / 2 ^ 56) ≠ 0#64 →
    decodeTxn t = .error .nonzeroMbz) ∧
  (∀ (s : State) (t : TxnWord) (rest : List TxnWord), s.feed = t :: rest → s.cfg.wf = true →
    (0x09 ≤ t.toNat / 2 ^ 56 →
      step s = .next { s with feed := rest, refused := true, result := .refused .reservedKind }) ∧
    (t.toNat / 2 ^ 56 ≤ 0x08 → t &&& mustBeZero (t.toNat / 2 ^ 56) ≠ 0#64 →
      step s = .next { s with feed := rest, refused := true, result := .refused .nonzeroMbz }))

/-- R60, R61: a word spells the transaction of the opcode-table row whose match it has under the row's
mask, with the operands its fields hold. -/
def Obligations.TransactionWordSelectsItsRow : Prop :=
  ∀ t : TxnWord,
    (decodeTxn t = .ok .reset ↔ t &&& 0xFFFFFFFFFFFFFFFF#64 = 0x0000000000000000#64) ∧
    (∀ d, decodeTxn t = .ok (.iowCtrl d) ↔
      t &&& 0xFFFFFFFFFFFFFF00#64 = 0x0100000000000000#64 ∧ d.toNat = t.toNat % 2 ^ 8) ∧
    (decodeTxn t = .ok .iorStatus ↔ t &&& 0xFFFFFFFFFFFFFFFF#64 = 0x0200000000000000#64) ∧
    (∀ a, decodeTxn t = .ok (.memr a) ↔
      t &&& 0xFFFFFFFFFF0000FF#64 = 0x0300000000000000#64 ∧ a.toNat = t.toNat / 2 ^ 8 % 2 ^ 16) ∧
    (∀ a d, decodeTxn t = .ok (.memw a d) ↔
      t &&& 0xFFFFFFFFFF000000#64 = 0x0400000000000000#64 ∧
        a.toNat = t.toNat / 2 ^ 8 % 2 ^ 16 ∧ d.toNat = t.toNat % 2 ^ 8) ∧
    (∀ l, decodeTxn t = .ok (.vsync l) ↔
      t &&& 0xFFFFFFFFFFFFFFFE#64 = 0x0500000000000000#64 ∧ l.toNat = t.toNat % 2) ∧
    (∀ l, decodeTxn t = .ok (.de l) ↔
      t &&& 0xFFFFFFFFFFFFFFFE#64 = 0x0600000000000000#64 ∧ l.toNat = t.toNat % 2) ∧
    (∀ base ra n cur, decodeTxn t = .ok (.render base ra n cur) ↔
      t &&& 0xFFE0000000000000#64 = 0x0700000000000000#64 ∧
        base.toNat = t.toNat % 2 ^ 16 ∧ n.toNat = t.toNat / 2 ^ 16 % 2 ^ 16 ∧
        ra.toNat = t.toNat / 2 ^ 48 % 2 ^ 4 ∧
        cur = if t.toNat / 2 ^ 52 % 2 = 1 then some (BitVec.ofNat 16 (t.toNat / 2 ^ 32)) else none) ∧
    (decodeTxn t = .ok .palinit ↔ t &&& 0xFFFFFFFFFFFFFFFF#64 = 0x0800000000000000#64)

/-- Every well-formed instruction is read back from the bits that spell it. -/
def Obligations.DecodeOfEncode : Prop :=
  ∀ i : Instr, i.wf = true → decode (encode i) = .ok i

/-- Encoding what a word decodes to gives the word back, but for the cursor field of a `RENDER` that gives
no cursor, which the spec says is ignored (R61; log 14). -/
def Obligations.EncodeOfDecode : Prop :=
  (∀ (t : TxnWord) (i : Instr), decodeTxn t = .ok i →
    encode i = .txn
      (if t.toNat / 2 ^ 56 = 7 ∧ t.toNat / 2 ^ 52 % 2 = 0 then t &&& 0xFFFF0000FFFFFFFF#64 else t)) ∧
  (∀ d : Byte, encode (decodeCtrl d) = .ctrl d)

/-- Whatever decodes is well-formed. -/
def Obligations.DecodedInstructionIsWellFormed : Prop :=
  ∀ (code : Code) (i : Instr), decode code = .ok i → i.wf = true

/-- R50. -/
def Obligations.ControlByteHasOneOfFiveClasses : Prop :=
  (∀ d : Byte,
    (decodeCtrl d = .ctrlFullram d ↔ d &&& 0x02#8 = 0x02#8) ∧
    (decodeCtrl d = .ctrlRomHiresw4 d ↔ d &&& 0x23#8 = 0x01#8) ∧
    (decodeCtrl d = .ctrlRomHiresw4Hi d ↔ d &&& 0x23#8 = 0x21#8) ∧
    (decodeCtrl d = .ctrlRomRamw4 d ↔ d &&& 0x23#8 = 0x00#8) ∧
    (decodeCtrl d = .ctrlRomRamw4Hi d ↔ d &&& 0x23#8 = 0x20#8) ∧
    (decodeCtrl d = .ctrlFullram d ∨ decodeCtrl d = .ctrlRomHiresw4 d ∨
      decodeCtrl d = .ctrlRomHiresw4Hi d ∨ decodeCtrl d = .ctrlRomRamw4 d ∨
      decodeCtrl d = .ctrlRomRamw4Hi d)) ∧
  ((List.range 256).filter fun k => BitVec.ofNat 8 k &&& 0x02#8 == 0x02#8).length = 128 ∧
  (∀ m ∈ [0x01#8, 0x21#8, 0x00#8, 0x20#8],
    ((List.range 256).filter fun k => BitVec.ofNat 8 k &&& 0x23#8 == m).length = 32)

/-- Words written out from the encodings of 30_encoding and 95_test_vectors decode to what they spell. -/
def Obligations.SpelledWordsDecode : Prop :=
  decodeTableWord 8 0x21 = some (.ctrlRomHiresw4Hi 0x21#8) ∧
  decodeTableWord 64 0x0000000000000000 = some .reset ∧
  decodeTableWord 64 0x0100000000000009 = some (.iowCtrl 0x09#8) ∧
  decodeTableWord 64 0x0300000000401000 = some (.memr 0x4010#16) ∧
  decodeTableWord 64 0x040000000028052B = some (.memw 0x2805#16 0x2B#8) ∧
  decodeTableWord 64 0x0713000100020000 = some (.render 0#16 3#4 2#16 (some 1#16)) ∧
  decode (.txn 0x0720000000010005#64) = .error .nonzeroMbz ∧
  decode (.txn 0x0900000000000000#64) = .error .reservedKind

/-- Every transaction has a line of the assembly syntax, which reads back as it, whether or not an expected
result stands after `->`; a number may also be decimal (R63). -/
def Obligations.AssemblyReadsBack : Prop :=
  (∀ i : Instr, i.isTransaction = true ↔ ∃ line, Assembly.printLine i = some line) ∧
  (∀ (i : Instr) (line expected : Assembly.Text), Assembly.printLine i = some line →
    Assembly.readLine line = some i ∧
    Assembly.readLine (line ++ " -> ".toList ++ expected) = some i) ∧
  Assembly.readLine "IOW_CTRL  13".toList = some (.iowCtrl 0x0D#8) ∧
  Assembly.readLine "MEMR      0x4010           -> 0x2B".toList = some (.memr 0x4010#16) ∧
  Assembly.readLine "RENDER 5, 2, 1, none".toList = some (.render 5#16 2#4 1#16 none) ∧
  Assembly.readLine "VSYNC 2".toList = none

/-! ### The Bank Controller -/

/-- Each decode class of a control byte sets its selections and completes (R66 to R69; a class as an
instruction of its own is the opcode table's, run by no input alone, log 11). -/
def Obligations.BareControlByteSelects : Prop :=
  ∀ (s : State) (d : Byte), s.cfg.wf = true →
    exec (.ctrlFullram d) s = .next { s with
      selR1 := .ram, selR2 := .ram, selR3 := .ram, selW2 := .ram, selW3 := .ram, selW4 := .ram
      result := .nothing } ∧
    exec (.ctrlRomHiresw4 d) s = .next { s with
      selR1 := .rom, selR2 := .rom, selR3 := .rom, selW2 := .vid, selW3 := .hires, selW4 := .hires
      result := .nothing } ∧
    exec (.ctrlRomHiresw4Hi d) s = .next { s with
      selR1 := .romHi, selR2 := .rom, selR3 := .rom, selW2 := .vid, selW3 := .hires, selW4 := .hires
      result := .nothing } ∧
    exec (.ctrlRomRamw4 d) s = .next { s with
      selR1 := .rom, selR2 := .rom, selR3 := .rom, selW2 := .vid, selW3 := .hires, selW4 := .ram
      result := .nothing } ∧
    exec (.ctrlRomRamw4Hi d) s = .next { s with
      selR1 := .romHi, selR2 := .rom, selR3 := .rom, selW2 := .vid, selW3 := .hires, selW4 := .ram
      result := .nothing }

/-- R65 to R69, R71, R72: by the class of the byte, exactly six selections are written and nothing else. -/
def Obligations.ApplyControlByteWritesSixSelections : Prop :=
  ∀ (s : State) (d : Byte),
    (d &&& 0x02#8 = 0x02#8 → applyControlByte d s = { s with
      selR1 := .ram, selR2 := .ram, selR3 := .ram, selW2 := .ram, selW3 := .ram, selW4 := .ram }) ∧
    (d &&& 0x23#8 = 0x01#8 → applyControlByte d s = { s with
      selR1 := .rom, selR2 := .rom, selR3 := .rom, selW2 := .vid, selW3 := .hires, selW4 := .hires }) ∧
    (d &&& 0x23#8 = 0x21#8 → applyControlByte d s = { s with
      selR1 := .romHi, selR2 := .rom, selR3 := .rom, selW2 := .vid, selW3 := .hires, selW4 := .hires }) ∧
    (d &&& 0x23#8 = 0x00#8 → applyControlByte d s = { s with
      selR1 := .rom, selR2 := .rom, selR3 := .rom, selW2 := .vid, selW3 := .hires, selW4 := .ram }) ∧
    (d &&& 0x23#8 = 0x20#8 → applyControlByte d s = { s with
      selR1 := .romHi, selR2 := .rom, selR3 := .rom, selW2 := .vid, selW3 := .hires, selW4 := .ram })

/-- R70: idempotent, the last control write wins, and bits 0, 1 and 5 decide the six selections whatever
the earlier state. -/
def Obligations.LastControlWriteWins : Prop :=
  (∀ (s : State) (d e : Byte), s.Ready →
    ∃ t u, exec (.iowCtrl d) s = .next t ∧ exec (.iowCtrl d) t = .next t ∧
      exec (.iowCtrl e) s = .next u ∧ exec (.iowCtrl d) u = .next t) ∧
  (∀ (s s' : State) (d d' : Byte),
    d.getLsbD 0 = d'.getLsbD 0 → d.getLsbD 1 = d'.getLsbD 1 → d.getLsbD 5 = d'.getLsbD 5 →
      (applyControlByte d s).selR1 = (applyControlByte d' s').selR1 ∧
      (applyControlByte d s).selR2 = (applyControlByte d' s').selR2 ∧
      (applyControlByte d s).selR3 = (applyControlByte d' s').selR3 ∧
      (applyControlByte d s).selW2 = (applyControlByte d' s').selW2 ∧
      (applyControlByte d s).selW3 = (applyControlByte d' s').selW3 ∧
      (applyControlByte d s).selW4 = (applyControlByte d' s').selW4)

/-- A control write stores the byte, and then does what the byte's decode class does (R77, R50). -/
def Obligations.ControlWriteRunsItsClass : Prop :=
  ∀ (s : State) (d : Byte), s.Ready →
    exec (.iowCtrl d) s = exec (decodeCtrl d) { s with status := d }

/-- R17, R112: of the nine transactions only `RESET` and `IOW_CTRL` change a selection, so no other input
does, and any two `RESET`s leave the same eight. -/
def Obligations.OnlyResetAndControlWriteSelect : Prop :=
  (∀ (i : Instr) (s t : State), i.isTransaction = true → exec i s = .next t →
    ¬ s.SameSelections t → i = .reset ∨ ∃ d, i = .iowCtrl d) ∧
  (∀ s t : State, step s = .next t → ¬ s.SameSelections t →
    ∃ w rest, s.feed = w :: rest ∧
      (decodeTxn w = .ok .reset ∨ ∃ d, decodeTxn w = .ok (.iowCtrl d))) ∧
  (∀ s s' : State, s.cfg.wf = true → s'.cfg.wf = true →
    ∃ t t', exec .reset s = .next t ∧ exec .reset s' = .next t' ∧ t.SameSelections t')

/-- R25: a control write makes the selections those its byte tells, and until a `RESET` every transaction
keeps them those the status byte tells. -/
def Obligations.StatusTellsSelections : Prop :=
  (∀ (s : State) (d : Byte), s.Ready →
    ∃ t, exec (.iowCtrl d) s = .next t ∧ t.status = d ∧ t.SelectedBy d) ∧
  (∀ (i : Instr) (s t : State), i.isTransaction = true → i ≠ .reset → exec i s = .next t →
    s.SelectedBy s.status → t.SelectedBy t.status)

/-! ### Memory through the windows -/

/-- A memory read returns the byte it resolves to, which is inside its buffer, and changes nothing (R37,
R39, R73); before a `RESET` it is refused. -/
def Obligations.MemoryReadReturnsResolvedByte : Prop :=
  ∀ (s : State) (a : CpuAddr),
    (s.Ready →
      (s.resolveRead a).2 < readSize s.cfg (s.resolveRead a).1 ∧
      exec (.memr a) s = .next { s with
        result := .byte (Memory.read (s.readable (s.resolveRead a).1) (s.resolveRead a).2) }) ∧
    (s.cfg.wf = true → s.booted = false →
      exec (.memr a) s = .next { s with refused := true, result := .refused .notBooted })

/-- R34: what a read of each window returns under each view of its list. -/
def Obligations.ReadWindowsFollowTheBankTable : Prop :=
  ∀ (s : State) (a : CpuAddr), s.Ready →
    (s.cfg.win1.base ≤ a.toNat → a.toNat < s.cfg.win1.base + s.cfg.win1.size →
      exec (.memr a) s = .next { s with result := .byte (
        match s.selR1 with
        | .ram => Memory.read s.ram a.toNat
        | .rom => Memory.read s.cfg.rom1Image.cells (a.toNat - s.cfg.win1.base)
        | .romHi => Memory.read s.cfg.rom1Image.cells (0x2000 + (a.toNat - s.cfg.win1.base))) }) ∧
    (s.cfg.win2.base ≤ a.toNat → a.toNat < s.cfg.win2.base + s.cfg.win2.size →
      exec (.memr a) s = .next { s with result := .byte (
        match s.selR2, s.cfg.romviewR2.bank with
        | .ram, _ => Memory.read s.ram a.toNat
        | .rom, .rom1 => Memory.read s.cfg.rom1Image.cells
            (s.cfg.romviewR2.off + (a.toNat - s.cfg.win2.base))
        | .rom, .rom2 => Memory.read s.cfg.rom2Image.cells
            (s.cfg.romviewR2.off + (a.toNat - s.cfg.win2.base))) }) ∧
    (s.cfg.win3.base ≤ a.toNat → a.toNat < s.cfg.win3.base + s.cfg.win3.size →
      exec (.memr a) s = .next { s with result := .byte (
        match s.selR3, s.cfg.romviewR3.bank with
        | .ram, _ => Memory.read s.ram a.toNat
        | .rom, .rom1 => Memory.read s.cfg.rom1Image.cells
            (s.cfg.romviewR3.off + (a.toNat - s.cfg.win3.base))
        | .rom, .rom2 => Memory.read s.cfg.rom2Image.cells
            (s.cfg.romviewR3.off + (a.toNat - s.cfg.win3.base))) }) ∧
    (s.cfg.win4.base ≤ a.toNat → a.toNat < s.cfg.win4.base + s.cfg.win4.size →
      exec (.memr a) s = .next { s with result := .byte (Memory.read s.ram a.toNat) })

/-- R35: where a write of each window lands under each view of its list; nothing else changes. -/
def Obligations.WriteWindowsFollowTheBankTable : Prop :=
  ∀ (s : State) (a : CpuAddr) (d : Byte), s.Ready →
    (s.cfg.win1.base ≤ a.toNat → a.toNat < s.cfg.win1.base + s.cfg.win1.size →
      exec (.memw a d) s = .next { s with
        ram := Memory.write s.ram a.toNat d, result := .nothing }) ∧
    (s.cfg.win2.base ≤ a.toNat → a.toNat < s.cfg.win2.base + s.cfg.win2.size →
      exec (.memw a d) s = .next (
        match s.selW2 with
        | .ram => { s with ram := Memory.write s.ram a.toNat d, result := .nothing }
        | .vid => { s with
            vram := Memory.write s.vram (a.toNat - s.cfg.win2.base) d, result := .nothing })) ∧
    (s.cfg.win3.base ≤ a.toNat → a.toNat < s.cfg.win3.base + s.cfg.win3.size →
      exec (.memw a d) s = .next (
        match s.selW3 with
        | .ram => { s with ram := Memory.write s.ram a.toNat d, result := .nothing }
        | .hires => { s with
            hires := Memory.write s.hires (a.toNat - s.cfg.win3.base) d, result := .nothing })) ∧
    (s.cfg.win4.base ≤ a.toNat → a.toNat < s.cfg.win4.base + s.cfg.win4.size →
      exec (.memw a d) s = .next (
        match s.selW4 with
        | .ram => { s with ram := Memory.write s.ram a.toNat d, result := .nothing }
        | .hires => { s with
            hires := Memory.write s.hires (s.cfg.hiresW4Off + (a.toNat - s.cfg.win4.base)) d
            result := .nothing }))

/-- R32. -/
def Obligations.FixedRegionIsMainRam : Prop :=
  ∀ (s : State) (a : CpuAddr) (d : Byte), s.Ready →
    (∀ k : Win, ¬ ((winRange s.cfg k).base ≤ a.toNat ∧
      a.toNat < (winRange s.cfg k).base + (winRange s.cfg k).size)) →
    exec (.memr a) s = .next { s with result := .byte (Memory.read s.ram a.toNat) } ∧
    exec (.memw a d) s = .next { s with
      ram := Memory.write s.ram a.toNat d, result := .nothing }

/-- R36: the RAM view of a window, in either direction. -/
def Obligations.RamViewIsTheSameAddress : Prop :=
  ∀ (s : State) (k : Win) (o : Nat), s.cfg.wf = true → o < (winRange s.cfg k).size →
    ((s.readPair k).1 = .ram →
      s.resolveRead (BitVec.ofNat 16 ((winRange s.cfg k).base + o)) =
        (.ram, (winRange s.cfg k).base + o)) ∧
    ((s.writePair k).1 = .ram →
      s.resolveWrite (BitVec.ofNat 16 ((winRange s.cfg k).base + o)) =
        (.ram, (winRange s.cfg k).base + o))

/-- A memory write completes, the byte it resolves to then holds the operand, every other byte of every
buffer reads as before, and no other field changes (R74, R18, R43). -/
def Obligations.MemoryWriteChangesOneByte : Prop :=
  ∀ (s : State) (a : CpuAddr) (d : Byte), s.Ready → s.BuffersFit →
    ∃ t, exec (.memw a d) s = .next t ∧
      Memory.read (t.writable (s.resolveWrite a).1) (s.resolveWrite a).2 = d ∧
      (∀ (b : WriteBuffer) (i : Nat), (b, i) ≠ s.resolveWrite a →
        Memory.read (t.writable b) i = Memory.read (s.writable b) i) ∧
      t = { s with ram := t.ram, vram := t.vram, hires := t.hires, result := .nothing }

/-- A byte written into window 1 under the reset selections lands in the RAM under the ROM: the same
address still reads the ROM, and reads the byte after a switch to full RAM (R75, R119). -/
def Obligations.WriteUnderRomIsReadInFullRam : Prop :=
  ∀ (s : State) (a : CpuAddr) (d : Byte), s.Ready → s.BuffersFit → s.ResetSelections →
    s.cfg.win1.base ≤ a.toNat → a.toNat < s.cfg.win1.base + s.cfg.win1.size →
    ∃ t u v w, exec (.memw a d) s = .next t ∧ exec (.memr a) t = .next u ∧
      u.result = .byte (Memory.read s.cfg.rom1Image.cells (a.toNat - s.cfg.win1.base)) ∧
      exec (.iowCtrl 0x02#8) u = .next v ∧ exec (.memr a) v = .next w ∧ w.result = .byte d

/-- What is written where a read of the same address also resolves is what the next fetch returns (R44,
R46). -/
def Obligations.NextFetchSeesRamWrite : Prop :=
  ∀ (s : State) (a : CpuAddr) (d : Byte), s.Ready → s.BuffersFit →
    (s.resolveRead a).1 = .ram → s.resolveWrite a = (.ram, (s.resolveRead a).2) →
    ∃ t, exec (.memw a d) s = .next t ∧ exec (.memr a) t = .next { t with result := .byte d }

/-- To the CPU video RAM and hi-res RAM are write-only: what they hold changes no byte a memory read
returns (R48, R117). -/
def Obligations.CpuReadsIgnoreVideoBuffers : Prop :=
  ∀ (s : State) (a : CpuAddr) (v h : Memory) (r : Byte),
    exec (.memr a) s = .next { s with result := .byte r } →
    exec (.memr a) { s with vram := v, hires := h } =
      .next { s with vram := v, hires := h, result := .byte r }

/-- R113, with the eight pairs the block outputs after a `RESET` (R38). -/
def Obligations.WindowsAfterReset : Prop :=
  ∀ s : State, s.cfg.wf = true → ∃ t, exec .reset s = .next t ∧
    t.readPair .w1 = (.rom1, 0) ∧
    t.readPair .w2 = (romBuffer s.cfg.romviewR2.bank, s.cfg.romviewR2.off) ∧
    t.readPair .w3 = (romBuffer s.cfg.romviewR3.bank, s.cfg.romviewR3.off) ∧
    t.readPair .w4 = (.ram, s.cfg.win4.base) ∧
    t.writePair .w1 = (.ram, s.cfg.win1.base) ∧
    t.writePair .w2 = (.vram, 0) ∧
    t.writePair .w3 = (.hires, 0) ∧
    t.writePair .w4 = (.ram, s.cfg.win4.base) ∧
    (∀ a : CpuAddr, s.cfg.win1.base ≤ a.toNat → a.toNat < s.cfg.win1.base + s.cfg.win1.size →
      exec (.memr a) t = .next { t with
        result := .byte (Memory.read s.cfg.rom1Image.cells (a.toNat - s.cfg.win1.base)) })

/-- The check of a configuration says what R40 lists; item 2 as 'no address is in two windows', item 8 in
the model's form of an image (log 16), the first clause of item 4 by type. -/
def Obligations.ConfigurationCheckSaysTheNineItems : Prop :=
  ∀ c : Cfg, c.wf = true ↔
    (∀ k : Win, 1 ≤ (winRange c k).size ∧ (winRange c k).base + (winRange c k).size ≤ 0x10000) ∧
    (∀ (j k : Win) (a : Nat), (winRange c j).covers a = true → (winRange c k).covers a = true →
      j = k) ∧
    c.rom1Size ≥ 0x2000 + c.win1.size ∧
    c.romviewR2.off + c.win2.size ≤ c.romSize c.romviewR2.bank ∧
    c.romviewR3.off + c.win3.size ≤ c.romSize c.romviewR3.bank ∧
    c.win2.size ≤ 0x1000 ∧
    (c.hiresSize ≥ 0x1000 ∧ c.win3.size ≤ c.hiresSize) ∧
    c.hiresW4Off + c.win4.size ≤ c.hiresSize ∧
    (c.rom1Image.bytes = c.rom1Size ∧ Memory.Fits c.rom1Size c.rom1Image.cells) ∧
    (c.rom2Image.bytes = c.rom2Size ∧ Memory.Fits c.rom2Size c.rom2Image.cells) ∧
    (c.charromImage.bytes = 0x1020 ∧ Memory.Fits 0x1020 c.charromImage.cells) ∧
    (c.pixclk0 > 0 ∧ c.pixclk1 > 0 ∧ c.ctrlPort ≠ c.statusPort)

/-! ### The System Status Latch -/

/-- The control write of R77: the byte verbatim into `S`, the selections of the byte, the clock select, no
other change, no failure; before a `RESET` it is refused. -/
def Obligations.ControlWriteStoresAndSelects : Prop :=
  ∀ (s : State) (d : Byte),
    (s.Ready → ∃ t, exec (.iowCtrl d) s = .next t ∧ t.status = d ∧ t.SelectedBy d ∧
      t.clksel = d.getLsbD 2 ∧
      t = { s with
        status := d, selR1 := t.selR1, selR2 := t.selR2, selR3 := t.selR3
        selW2 := t.selW2, selW3 := t.selW3, selW4 := t.selW4, result := .nothing }) ∧
    (s.cfg.wf = true → s.booted = false →
      exec (.iowCtrl d) s = .next { s with refused := true, result := .refused .notBooted })

/-- R79, R80. -/
def Obligations.StatusReadReturnsAndKeeps : Prop :=
  decodeTxn 0x0200000000000000#64 = .ok .iorStatus ∧
  ∀ s : State,
    (s.Ready → ∃ t,
      t = { s with
        result := .byte ((s.status &&& 0x2F#8) ||| (if s.vs then 0x10#8 else 0x00#8) ||| 0xC0#8) } ∧
      exec .iorStatus s = .next t ∧ exec .iorStatus t = .next t) ∧
    (s.cfg.wf = true → s.booted = false →
      exec .iorStatus s = .next { s with refused := true, result := .refused .notBooted })

/-- R52, bit by bit. -/
def Obligations.StatusReadBits : Prop :=
  ∀ s : State, s.Ready → ∃ r : Byte, exec .iorStatus s = .next { s with result := .byte r } ∧
    r.getLsbD 7 = true ∧ r.getLsbD 6 = true ∧ r.getLsbD 5 = s.status.getLsbD 5 ∧
    r.getLsbD 4 = s.vs ∧ r.getLsbD 3 = s.status.getLsbD 3 ∧ r.getLsbD 2 = s.status.getLsbD 2 ∧
    r.getLsbD 1 = s.status.getLsbD 1 ∧ r.getLsbD 0 = s.status.getLsbD 0 ∧
    r.toNat = (s.status &&& 0x2F#8).toNat + 16 * s.vs.toNat + 0xC0

/-- R81. -/
def Obligations.VsyncLatchesTheLevel : Prop :=
  decodeTxn 0x0500000000000000#64 = .ok (.vsync false) ∧
  decodeTxn 0x0500000000000001#64 = .ok (.vsync true) ∧
  ∀ (s : State) (l : Bool),
    (s.Ready → exec (.vsync l) s = .next { s with vs := l, result := .nothing }) ∧
    (s.Ready → s.vs = l → exec (.vsync l) s = .next { s with result := .nothing }) ∧
    (s.cfg.wf = true → s.booted = false →
      exec (.vsync l) s = .next { s with refused := true, result := .refused .notBooted })

/-- R82: the latch is written, and nothing any instruction returns or leaves depends on it but the latch
itself. -/
def Obligations.DisplayEnableIsLatchedAndUnread : Prop :=
  decodeTxn 0x0600000000000000#64 = .ok (.de false) ∧
  decodeTxn 0x0600000000000001#64 = .ok (.de true) ∧
  (∀ (s : State) (l : Bool),
    (s.Ready → exec (.de l) s = .next { s with de := l, result := .nothing }) ∧
    (s.cfg.wf = true → s.booted = false →
      exec (.de l) s = .next { s with refused := true, result := .refused .notBooted })) ∧
  (∀ (i : Instr) (s t : State) (l : Bool), exec i s = .next t →
    ∃ t', exec i { s with de := l } = .next t' ∧ t' = { t with de := t'.de } ∧
      t'.result = t.result ∧ t'.clksel = t.clksel ∧
      (∀ k, t'.readPair k = t.readPair k ∧ t'.writePair k = t.writePair k))

/-- R83. -/
def Obligations.VsyncLevelSurvivesControlWrites : Prop :=
  (∀ (i : Instr) (s t : State), exec i s = .next t → (∀ l, i ≠ .vsync l) → i ≠ .reset →
    t.vs = s.vs) ∧
  (∀ (s : State) (l : Bool) (d : Byte), s.Ready →
    ∃ t u r, exec (.vsync l) s = .next t ∧ exec (.iowCtrl d) t = .next u ∧
      exec .iorStatus u = .next { u with result := .byte r } ∧ r.getLsbD 4 = l)

/-- The status byte and the display-enable latch each have one writer beside `RESET` (R10, R12). -/
def Obligations.LatchesHaveOneWriter : Prop :=
  ∀ (i : Instr) (s t : State), exec i s = .next t →
    (t.status ≠ s.status → i = .iowCtrl t.status ∨ i = .reset) ∧
    (t.de ≠ s.de → i = .de t.de ∨ i = .reset)

/-- R78. -/
def Obligations.ClockSelectIsStatusBitTwo : Prop :=
  (∀ s : State, s.clksel = s.status.getLsbD 2 ∧
    (s.clksel = true → s.pixelClock = s.cfg.pixclk1) ∧
    (s.clksel = false → s.pixelClock = s.cfg.pixclk0)) ∧
  (∀ (s t : State) (base n : BitVec 16) (ra : BitVec 4) (cur : Option (BitVec 16)) (x : Byte),
    x.getLsbD 3 = s.status.getLsbD 3 → exec (.render base ra n cur) s = .next t →
    exec (.render base ra n cur) { s with status := x } = .next { t with status := x }) ∧
  (∀ s : State, s.cfg.wf = true →
    ∃ t, exec .reset s = .next t ∧ t.clksel = (Config.resetStatus s.draws).getLsbD 2)

/-! ### The Raster Compositor -/

/-- R85 to R89, R91: a render completes, writes nothing, and pixel `8x + i` of its row is what the seven
steps make of the cell of column `x`; the colours are the indices through the palette (R92). -/
def Obligations.RenderedRowFollowsTheSevenSteps : Prop :=
  ∀ (s : State) (base n : BitVec 16) (ra : BitVec 4) (cur : Option (BitVec 16)), s.Ready →
    ∃ idx : List PalIndex,
      exec (.render base ra n cur) s =
        .next { s with result := .row idx (idx.map (palette s.cfg)) } ∧
      idx.length = 8 * n.toNat ∧
      ∀ x i : Nat, x < n.toNat → i < 8 →
        let mem := (base.toNat + x) % 2048
        let chr := Memory.read s.vram mem
        let attr := Memory.read s.vram (mem + 0x800)
        let fg := (if s.status.getLsbD 3 then 16 else 0) + attr.toNat / 16
        let bg := 32 + attr.toNat / 2 % 8
        let gi := chr.toNat * 16 + ra.toNat
        let g := if attr.toNat % 2 = 1 ∧ 128 ≤ chr.toNat then Memory.read s.hires gi
          else Memory.read s.cfg.charromImage.cells gi
        let shown := if cur.map BitVec.toNat = some x then 255 - g.toNat else g.toNat
        ∃ p : PalIndex, idx[8 * x + i]? = some p ∧
          p.val = if shown / 2 ^ (7 - i) % 2 = 1 then fg else bg

/-- R94: a render writes no state, and two states that agree on the character ROM, `S[3]`, `VRAM` and
`HIRES` return the same rows, whatever the rest of their configurations. -/
def Obligations.RenderReadsOnlyItsSources : Prop :=
  ∀ (s s' : State) (base n : BitVec 16) (ra : BitVec 4) (cur : Option (BitVec 16)),
    s.Ready → s'.Ready → s.cfg.charromImage = s'.cfg.charromImage →
    s.status.getLsbD 3 = s'.status.getLsbD 3 →
    s.vram = s'.vram → s.hires = s'.hires →
    ∃ r, exec (.render base ra n cur) s = .next { s with result := r } ∧
      exec (.render base ra n cur) s' = .next { s' with result := r }

/-- R93. -/
def Obligations.RenderOperandDomains : Prop :=
  (∀ (s : State) (base n : BitVec 16) (ra : BitVec 4) (cur : Option (BitVec 16)),
    exec (.render base ra n cur) s = exec (.render (BitVec.ofNat 16 (base.toNat % 2048)) ra n cur) s) ∧
  (∀ (s : State) (base : BitVec 16) (ra : BitVec 4) (cur : Option (BitVec 16)), s.Ready →
    exec (.render base ra 0#16 cur) s = .next { s with result := .row [] [] }) ∧
  (∀ (s : State) (base n : BitVec 16) (ra : BitVec 4), s.Ready →
    ∃ idx col, exec (.render base ra n none) s = .next { s with result := .row idx col } ∧
      ∀ x i : Nat, x + 2048 < n.toNat → i < 8 → idx[8 * (x + 2048) + i]? = idx[8 * x + i]?) ∧
  (∀ (s : State) (base n : BitVec 16) (ra : BitVec 4) (c : BitVec 16), n.toNat ≤ c.toNat →
    exec (.render base ra n (some c)) s = exec (.render base ra n none) s)

/-- R90: with a cursor at column `c` every other column is as without one, and each pixel of column `c`
has the other of the cell's two colours, at every scan row. -/
def Obligations.CursorInvertsItsColumn : Prop :=
  ∀ (s : State) (base n : BitVec 16) (ra : BitVec 4) (c : BitVec 16), s.Ready →
    ∃ idx idx' col col',
      exec (.render base ra n none) s = .next { s with result := .row idx col } ∧
      exec (.render base ra n (some c)) s = .next { s with result := .row idx' col' } ∧
      (∀ x i : Nat, x < n.toNat → i < 8 → x ≠ c.toNat → idx'[8 * x + i]? = idx[8 * x + i]?) ∧
      (∀ x i : Nat, x < n.toNat → i < 8 → x = c.toNat →
        ∃ fg bg, fg = fgIndex s.altColours (attrFg (s.cellAttr base x)) ∧
          bg = bgIndex (attrBg (s.cellAttr base x)) ∧ fg ≠ bg ∧
          (idx[8 * x + i]? = some fg ∧ idx'[8 * x + i]? = some bg ∨
            idx[8 * x + i]? = some bg ∧ idx'[8 * x + i]? = some fg))

/-! ### The Palette -/

/-- R96: accepted before and after a `RESET`, any number of times, with no state written; the entries are
what they were. -/
def Obligations.PaletteInitializeChangesNothing : Prop :=
  decodeTxn 0x0800000000000000#64 = .ok .palinit ∧
  ∀ s : State, s.cfg.wf = true →
    ∃ t, exec .palinit s = .next t ∧ t = { s with result := .nothing } ∧
      exec .palinit t = .next t ∧ palette t.cfg = palette s.cfg ∧
      palette t.cfg 37 = { red := 255, green := 255, blue := 0 }

/-- R97, R98: the colour of a foreground entry is the weighted sum of the bits of its colour code, with no
overflow. -/
def Obligations.ForegroundColoursAreWeighedCodes : Prop :=
  ∀ (c : Cfg) (i : PalIndex), i.val < 32 →
    let code := (Memory.read c.charromImage.cells (0x1000 + i.val)).toNat
    (palette c i).red.toNat = 38 * (code % 2) + 73 * (code / 2 % 2) + 144 * (code / 4 % 2) ∧
    (palette c i).blue.toNat = 38 * (code / 8 % 2) + 73 * (code / 16 % 2) + 144 * (code / 32 % 2) ∧
    (palette c i).green.toNat = 85 * (code / 64 % 2) + 170 * (code / 128 % 2)

/-- R99: the eight colours in their order, bit 0 of the number red, bit 1 blue, bit 2 green; and a cell's
foreground never takes one of them. -/
def Obligations.BackgroundColoursAreFixed : Prop :=
  (∀ c : Cfg,
    palette c 32 = { red := 0, green := 0, blue := 0 } ∧
    palette c 33 = { red := 255, green := 0, blue := 0 } ∧
    palette c 34 = { red := 0, green := 0, blue := 255 } ∧
    palette c 35 = { red := 255, green := 0, blue := 255 } ∧
    palette c 36 = { red := 0, green := 255, blue := 0 } ∧
    palette c 37 = { red := 255, green := 255, blue := 0 } ∧
    palette c 38 = { red := 0, green := 255, blue := 255 } ∧
    palette c 39 = { red := 255, green := 255, blue := 255 }) ∧
  (∀ (c : Cfg) (bg : BitVec 3), palette c (bgIndex bg) = {
    red := if bg.getLsbD 0 then 255 else 0
    blue := if bg.getLsbD 1 then 255 else 0
    green := if bg.getLsbD 2 then 255 else 0 }) ∧
  ∀ (alt : Bool) (fg : BitVec 4), (fgIndex alt fg).val < 32

/-- R100: the palette depends only on the character ROM's image, and no step changes it. -/
def Obligations.PaletteIsAFunctionOfTheCharacterRom : Prop :=
  (∀ c c' : Cfg, c.charromImage = c'.charromImage → palette c = palette c') ∧
  (∀ s t : State, step s = .next t → palette t.cfg = palette s.cfg)

/-! ### Reset, refusals, the bookkeeping bits -/

/-- R109: the eight selections, the draws, `booted`; the buffers and `refused` are not written. `S`, `VS`
and `DE` take the free values of log 5. -/
def Obligations.ResetLeavesTheInitialState : Prop :=
  decodeTxn 0x0000000000000000#64 = .ok .reset ∧
  ∀ s : State, s.cfg.wf = true → ∃ t, exec .reset s = .next t ∧ t.ResetSelections ∧
    t.status = Config.resetStatus s.draws ∧ t.vs = Config.resetVs s.draws ∧
    t.de = Config.resetDe s.draws ∧ t.booted = true ∧
    t.ram = s.ram ∧ t.vram = s.vram ∧ t.hires = s.hires ∧ t.refused = s.refused ∧
    t.cfg = s.cfg ∧ t.feed = s.feed ∧ t.result = .nothing

/-- Whatever the configuration, the power-on contents of the buffers and what the fields without a value
hold (log 12), the first `RESET` after power-on leaves the state the model starts from, but for that
configuration and those contents (R26, R27, R110; those `State.reset` itself carries are the model's
choice, logs 4, 6, 7); and that state is ready. -/
def Obligations.StateResetFollowsPowerOn : Prop :=
  (∀ (c : Cfg) (r v h : Memory) (unset : State), c.wf = true →
    exec .reset (State.powerOn c r v h unset) =
      .next { State.reset with cfg := c, ram := r, vram := v, hires := h }) ∧
  State.reset.Ready

/-- R111. -/
def Obligations.BeforeResetTransactionsAreRefused : Prop :=
  ∀ (i : Instr) (s : State), i.isTransaction = true → i ≠ .reset → i ≠ .palinit →
    s.cfg.wf = true → s.booted = false →
    exec i s = .next { s with refused := true, result := .refused .notBooted }

/-- Under an ill-formed configuration every input is refused with that reason (R40, R105; that it goes
before the other reasons is the model's, log 9). -/
def Obligations.IllFormedConfigurationIsRefused : Prop :=
  (∀ (i : Instr) (s : State), s.cfg.wf = false →
    exec i s = .next { s with refused := true, result := .refused .cfgIllFormed }) ∧
  (∀ (s : State) (t : TxnWord) (rest : List TxnWord), s.feed = t :: rest → s.cfg.wf = false →
    step s = .next { s with feed := rest, refused := true, result := .refused .cfgIllFormed })

/-- R105: a transaction word is refused in exactly the four cases, for a reason whose case holds, with no
state change but `refused`, and otherwise `refused` is as it was. -/
def Obligations.RefusedInExactlyFourCases : Prop :=
  ∀ (s t : State) (w : TxnWord) (rest : List TxnWord), s.feed = w :: rest → step s = .next t →
    ((∃ why, t.result = .refused why) ↔
      (s.cfg.wf = false ∨ decodeTxn w = .error .reservedKind ∨ decodeTxn w = .error .nonzeroMbz ∨
        s.booted = false ∧ ∃ i, decodeTxn w = .ok i ∧ i ≠ .reset ∧ i ≠ .palinit)) ∧
    (t.result = .refused .cfgIllFormed → s.cfg.wf = false) ∧
    (t.result = .refused .reservedKind → decodeTxn w = .error .reservedKind) ∧
    (t.result = .refused .nonzeroMbz → decodeTxn w = .error .nonzeroMbz) ∧
    (t.result = .refused .notBooted →
      s.booted = false ∧ ∃ i, decodeTxn w = .ok i ∧ i ≠ .reset ∧ i ≠ .palinit) ∧
    ((∃ why, t.result = .refused why) →
      t = { s with feed := rest, refused := true, result := t.result }) ∧
    ((¬ ∃ why, t.result = .refused why) → t.refused = s.refused)

/-- R23: 0 at power-on, `booted` set by `RESET` alone, `refused` set by any refusal, and neither ever
cleared. -/
def Obligations.BookkeepingBitsAreSticky : Prop :=
  (∀ (c : Cfg) (r v h : Memory) (unset : State),
    (State.powerOn c r v h unset).booted = false ∧ (State.powerOn c r v h unset).refused = false) ∧
  (∀ s t : State, step s = .next t →
    (s.refused = true → t.refused = true) ∧ (s.booted = true → t.booted = true)) ∧
  (∀ (i : Instr) (s t : State), exec i s = .next t → s.booted = false → t.booted = true →
    i = .reset) ∧
  (∀ s : State, s.cfg.wf = true → ∃ t, exec .reset s = .next t ∧ t.booted = true) ∧
  (∀ (i : Instr) (s t : State) (why : RefuseReason), exec i s = .next t → t.result = .refused why →
    t.refused = true)

/-- Before the first `RESET` no transaction shows what the selections, `S`, `VS` and `DE` hold: two states
that differ in nothing else step alike, and are equal once a `RESET` is taken (R110, R111). What `CLKSEL`
and the window pairs are then this does not say: they follow the fields, which have no value (log 12). -/
def Obligations.NoTransactionShowsUnsetFields : Prop :=
  ∀ s s' : State, s.booted = false → s.SameButUnset s' →
    ∃ t t', step s = .next t ∧ step s' = .next t' ∧ t.SameButUnset t' ∧
      t.result = t'.result ∧ (t.booted = true → t = t')

/-! ### The whole machine -/

/-- Transactions that change no state: what they return is all that differs, but for `refused`, which
changes on a refusal alone (R43, R80, R94, R96). -/
def Obligations.ReadingTransactionsChangeNoState : Prop :=
  ∀ (i : Instr) (s t : State),
    i = .iorStatus ∨ (∃ a, i = .memr a) ∨ (∃ base ra n cur, i = .render base ra n cur) ∨
      i = .palinit →
    exec i s = .next t →
      t = { s with refused := t.refused, result := t.result } ∧
      ((¬ ∃ why, t.result = .refused why) → t.refused = s.refused)

/-- Each step completes one input and leaves the later ones as they were (R44; the input list is the
model's, log 1); no step changes the configuration, and so no ROM and no Bank Table (R3, R19, R33; the
configuration as a field is the model's, log 3). -/
def Obligations.StepTakesOneInputAndKeepsTheConfiguration : Prop :=
  ∀ s t : State, step s = .next t → t.feed = s.feed.tail ∧ t.cfg = s.cfg

/-- No step faults and none is without a meaning: whatever the state and the input, there is a next state
(R101, R106, R48, R95). Under an ill-formed configuration, before a `RESET` and on a word that spells
nothing this rests on the model's reading of a refusal as a next state (log 8), and on its refusing before
it computes an index (log 10). -/
def Obligations.EveryStepHasANextState : Prop :=
  ∀ s : State, ∃ t, step s = .next t

/-- Every step keeps the buffers canonical and inside their sizes (R9, R18). -/
def Obligations.StepKeepsBuffersFit : Prop :=
  ∀ s t : State, s.BuffersFit → step s = .next t → t.BuffersFit

/-- The buffers of the state the model starts from fit. -/
def Obligations.ResetBuffersFit : Prop := State.reset.BuffersFit

/-- Whatever inputs the environment has lined up, as many steps as there are inputs complete them all,
under the configuration the run began with (R44, R101). The input list is the model's (log 1), and so is
going on after a refusal (log 8). -/
def Obligations.EveryFeedIsCompleted : Prop :=
  ∀ s : State, ∃ t, core.run s.feed.length s = .next t ∧ t.feed = [] ∧ t.cfg = s.cfg
end

