-- ==== Sys2Proof/Laws/Assembly.lean ====
section
/-! SUPPORT. Printed operands read back, and a line laid out as a mnemonic and operands between commas is
taken apart into them. -/

namespace Sys2Proof.Assembly

/-! ### Operands -/

/-- A character that neither separates nor ends anything on a line. -/
def isPlain (c : Char) : Bool := !isBlank c && c != ',' && c != '-'

/-- A part of a line: some plain characters. -/
def Plain (t : Text) : Prop := t ≠ [] ∧ t.all isPlain = true

theorem digitValue_digit : ∀ v : BitVec 4, digitValue (digit v) = some v.toNat := by decide

theorem isPlain_digit : ∀ v : BitVec 4, isPlain (digit v) = true := by decide

theorem field_printNibble : ∀ v : BitVec 4, field 4 (printNibble v) = some v := by decide

theorem field_printByte (v : Byte) : field 8 (printByte v) = some v := by
  have hv := v.isLt
  have h1 := (v.extractLsb' 4 4).isLt
  have h0 := (v.extractLsb' 0 4).isLt
  simp only [show (2 : Nat) ^ 4 = 16 from rfl] at h1 h0
  simp only [field, printByte, number, digitsValue, digitValue_digit, h1, h0, ↓reduceIte]
  simp only [BitVec.extractLsb'_toNat, Nat.shiftRight_eq_div_pow]
  rw [if_pos (by omega)]
  congr 1
  apply BitVec.eq_of_toNat_eq
  simp
  omega

theorem field_printWord (v : BitVec 16) : field 16 (printWord v) = some v := by
  have hv := v.isLt
  have h3 := (v.extractLsb' 12 4).isLt
  have h2 := (v.extractLsb' 8 4).isLt
  have h1 := (v.extractLsb' 4 4).isLt
  have h0 := (v.extractLsb' 0 4).isLt
  simp only [show (2 : Nat) ^ 4 = 16 from rfl] at h3 h2 h1 h0
  simp only [field, printWord, number, digitsValue, digitValue_digit, h3, h2, h1, h0, ↓reduceIte]
  simp only [BitVec.extractLsb'_toNat, Nat.shiftRight_eq_div_pow]
  rw [if_pos (by omega)]
  congr 1
  apply BitVec.eq_of_toNat_eq
  simp
  omega

theorem level_printLevel : ∀ l : Bool, level (printLevel l) = some l := by decide

theorem cursor_printCursor (cur : Option (BitVec 16)) : cursor (printCursor cur) = some cur := by
  cases cur with
  | none => rfl
  | some c => rw [printCursor, cursor, if_neg (by simp [printWord]), field_printWord]; rfl

theorem plain_printNibble (v : BitVec 4) : Plain (printNibble v) :=
  ⟨by simp [printNibble], by simp only [printNibble, List.all_cons, isPlain_digit]; decide⟩

theorem plain_printByte (v : Byte) : Plain (printByte v) :=
  ⟨by simp [printByte], by simp only [printByte, List.all_cons, isPlain_digit]; decide⟩

theorem plain_printWord (v : BitVec 16) : Plain (printWord v) :=
  ⟨by simp [printWord], by simp only [printWord, List.all_cons, isPlain_digit]; decide⟩

theorem plain_printLevel (l : Bool) : Plain (printLevel l) := by
  cases l <;> exact ⟨by decide, by decide⟩

theorem plain_printCursor : ∀ cur : Option (BitVec 16), Plain (printCursor cur)
  | none => ⟨by decide, by decide⟩
  | some c => plain_printWord c

/-! ### Lines -/

theorem not_blank_of_plain {t : Text} (h : Plain t) : ∀ c ∈ t, isBlank c = false := by
  intro c hc
  have := List.all_eq_true.1 h.2 c hc
  simp only [isPlain, Bool.and_eq_true, Bool.not_eq_true'] at this
  exact this.1.1

theorem comma_not_mem {t : Text} (h : Plain t) : ',' ∉ t :=
  fun hm => absurd (List.all_eq_true.1 h.2 _ hm) (by decide)

theorem dash_not_mem {t : Text} (h : Plain t) : '-' ∉ t :=
  fun hm => absurd (List.all_eq_true.1 h.2 _ hm) (by decide)

theorem plain_reverse {t : Text} (h : Plain t) : Plain t.reverse := ⟨by simpa using h.1, by simpa using h.2⟩

/-- Nothing is dropped in front of a part. -/
theorem dropWhile_plain {t : Text} (h : Plain t) (r : Text) :
    (t ++ r).dropWhile isBlank = t ++ r := by
  obtain ⟨c, t, rfl⟩ := List.exists_cons_of_ne_nil h.1
  rw [List.cons_append, List.dropWhile_cons, not_blank_of_plain h c (by simp)]
  rfl

/-- A text that begins and ends with a part is already trimmed. -/
theorem trim_of_ends {t u v : Text} (ht : Plain t) (hv : Plain v) : trim (t ++ u ++ v) = t ++ u ++ v := by
  rw [trim, List.append_assoc, dropWhile_plain ht, List.reverse_append, List.reverse_append,
    List.append_assoc, dropWhile_plain (plain_reverse hv)]
  simp

theorem trim_of_plain {t : Text} (h : Plain t) : trim t = t := by
  have h1 := dropWhile_plain h []
  have h2 := dropWhile_plain (plain_reverse h) []
  rw [List.append_nil] at h1 h2
  rw [trim, h1, h2, List.reverse_reverse]

theorem trim_append_blank (t : Text) : trim (t ++ [' ']) = trim t := by
  rw [trim, trim, List.dropWhile_append]
  split
  · rename_i h
    rw [List.isEmpty_iff] at h
    rw [h]
    rfl
  · simp [isBlank]

theorem trim_blank_cons {t : Text} (h : Plain t) : trim (' ' :: t) = t := by
  have : trim (' ' :: t) = trim t := by simp [trim, List.dropWhile, isBlank]
  rw [this, trim_of_plain h]

/-- A text without a dash stands before any arrow. -/
theorem beforeArrow_append {t : Text} (h : '-' ∉ t) (r : Text) :
    beforeArrow (t ++ r) = t ++ beforeArrow r := by
  induction t with
  | nil => rfl
  | cons c t ih =>
    simp only [List.mem_cons, not_or] at h
    rw [List.cons_append, beforeArrow, ih h.2, if_neg fun e => h.1 e.1.symm]
    rfl

/-- The text between two commas goes in front of the first part. -/
theorem parts_append {p : Text} (hp : ',' ∉ p) (r : Text) :
    ∃ q qs, parts r = q :: qs ∧ parts (p ++ r) = (p ++ q) :: qs := by
  have nonempty : ∀ r, ∃ q qs, parts r = q :: qs := by
    intro r
    induction r with
    | nil => exact ⟨_, _, rfl⟩
    | cons c r ih =>
      obtain ⟨q, qs, e⟩ := ih
      rw [parts]
      split
      · exact ⟨_, _, rfl⟩
      · rw [e]; exact ⟨_, _, rfl⟩
  obtain ⟨q, qs, e⟩ := nonempty r
  refine ⟨q, qs, e, ?_⟩
  induction p with
  | nil => exact e
  | cons c p ih =>
    simp only [List.mem_cons, not_or] at hp
    rw [List.cons_append, parts, if_neg (Ne.symm hp.1), ih hp.2]
    rfl

/-- Operands after the first, each behind a comma and a space. -/
def later : List Text → Text
  | [] => []
  | o :: os => ',' :: ' ' :: (o ++ later os)

/-- A mnemonic and its operands as a line. -/
def layOut (mnemonic : Text) : List Text → Text
  | [] => mnemonic
  | o :: os => mnemonic ++ ' ' :: (o ++ later os)

theorem parts_later {o : Text} {os : List Text} (ho : ',' ∉ o) (hos : ∀ t ∈ os, Plain t) :
    parts (o ++ later os) = o :: os.map (' ' :: ·) := by
  induction os generalizing o with
  | nil =>
    obtain ⟨q, qs, e, e'⟩ := parts_append ho []
    cases e
    simpa [later] using e'
  | cons p os ih =>
    obtain ⟨q, qs, e, e'⟩ := parts_append ho (later (p :: os))
    have tail := ih (o := ' ' :: p)
      (by simp only [List.mem_cons, not_or]; exact ⟨by decide, comma_not_mem (hos p (by simp))⟩)
      (fun t ht => hos t (by simp [ht]))
    rw [List.cons_append] at tail
    rw [later, parts, if_pos rfl, tail] at e
    cases e
    rw [e']
    simp

theorem later_ends {o : Text} {os : List Text} (ho : Plain o) (hos : ∀ t ∈ os, Plain t) :
    ∃ u v, Plain v ∧ o ++ later os = u ++ v := by
  induction os generalizing o with
  | nil => exact ⟨[], o, ho, by simp [later]⟩
  | cons p os ih =>
    obtain ⟨u, v, hv, e⟩ := ih (hos p (by simp)) fun t ht => hos t (by simp [ht])
    exact ⟨o ++ ',' :: ' ' :: u, v, hv, by simp [later, e]⟩

theorem dash_not_mem_layOut {m : Text} {os : List Text} (hm : Plain m) (hos : ∀ t ∈ os, Plain t) :
    '-' ∉ layOut m os := by
  have inLater : ∀ os : List Text, (∀ t ∈ os, Plain t) → '-' ∉ later os := by
    intro os
    induction os with
    | nil => simp [later]
    | cons o os ih =>
      intro h
      simp only [later, List.mem_cons, List.mem_append, not_or]
      exact ⟨by decide, by decide, dash_not_mem (h o (by simp)), ih fun t ht => h t (by simp [ht])⟩
  cases os with
  | nil => exact dash_not_mem hm
  | cons o os =>
    simp only [layOut, List.mem_append, List.mem_cons, not_or]
    exact ⟨dash_not_mem hm, by decide, dash_not_mem (hos o (by simp)),
      inLater os fun t ht => hos t (by simp [ht])⟩

/-- A laid-out line is trimmed, begins with its mnemonic, and has its operands after it. -/
theorem layOut_parts {m : Text} {os : List Text} (hm : Plain m) (hos : ∀ t ∈ os, Plain t) :
    trim (layOut m os) = layOut m os ∧
      ((layOut m os).takeWhile fun c => !isBlank c) = m ∧
      operands ((layOut m os).dropWhile fun c => !isBlank c) = os := by
  have letters : ∀ c ∈ m, (fun c => !isBlank c) c = true := fun c hc => by
    simp [not_blank_of_plain hm c hc]
  cases os with
  | nil =>
    refine ⟨trim_of_plain hm, List.takeWhile_eq_self_iff.2 letters, ?_⟩
    rw [layOut, List.dropWhile_eq_nil_iff.2 letters]
    rfl
  | cons o os =>
    have ho := hos o (by simp)
    have hos' : ∀ t ∈ os, Plain t := fun t ht => hos t (by simp [ht])
    obtain ⟨u, v, hv, e⟩ := later_ends ho hos'
    refine ⟨?_, ?_, ?_⟩
    · rw [layOut, e]
      simpa using trim_of_ends (u := ' ' :: u) hm hv
    · rw [layOut, List.takeWhile_append_of_pos letters]
      simp [isBlank]
    · have drop : ((layOut m (o :: os)).dropWhile fun c => !isBlank c) = ' ' :: (o ++ later os) := by
        rw [layOut, List.dropWhile_append_of_pos letters]
        simp [isBlank]
      have something : trim (' ' :: (o ++ later os)) ≠ [] := by
        rw [trim, List.dropWhile_cons, show isBlank ' ' = true from rfl, if_pos rfl,
          dropWhile_plain ho, Ne, List.reverse_eq_nil_iff, List.dropWhile_eq_nil_iff]
        intro blank
        obtain ⟨c, o', rfl⟩ := List.exists_cons_of_ne_nil ho.1
        have h1 := blank c (by simp)
        rw [not_blank_of_plain ho c (by simp)] at h1
        cases h1
      have first : ',' ∉ (' ' :: o) := by
        simp only [List.mem_cons, not_or]
        exact ⟨by decide, comma_not_mem ho⟩
      have split := parts_later first hos'
      rw [List.cons_append] at split
      rw [drop, operands, if_neg something, split, List.map_cons, List.map_map, trim_blank_cons ho]
      congr 1
      conv_rhs => rw [← List.map_id os]
      exact List.map_congr_left fun t ht => trim_blank_cons (hos' t ht)

/-- A laid-out line reads as the transaction of its mnemonic and operands, with or without an expected
result after it (R63). -/
theorem readLine_layOut {m : Text} {os : List Text} {i : Instr} (hm : Plain m)
    (hos : ∀ t ∈ os, Plain t) (hi : transaction m os = some i) (expected : Text) :
    readLine (layOut m os) = some i ∧
      readLine (layOut m os ++ " -> ".toList ++ expected) = some i := by
  obtain ⟨h1, h2, h3⟩ := layOut_parts hm hos
  have whole := beforeArrow_append (dash_not_mem_layOut hm hos) []
  have cut := beforeArrow_append (dash_not_mem_layOut hm hos) (" -> ".toList ++ expected)
  rw [List.append_nil, show beforeArrow [] = [] from rfl, List.append_nil] at whole
  rw [show beforeArrow (" -> ".toList ++ expected) = [' '] from rfl] at cut
  constructor
  · simp only [readLine, whole, h1, h2, h3, hi]
  · simp only [readLine, List.append_assoc, cut, trim_append_blank, h1, h2, h3, hi]

end Sys2Proof.Assembly
end

