-- ==== Sys2Proof/Laws/Memory.lean ====
section
/-! SUPPORT. What reading and writing a byte do to a listing: the byte written is read back, every
other byte is as before, and the canonical form is kept. -/

namespace Sys2Proof.Machine

/-- An index below every listed one reads as unlisted. -/
theorem Memory.read_below {lo i : Nat} {m : Memory} (hm : Memory.wfFrom lo m = true) (hi : i < lo) :
    Memory.read m i = Memory.unlisted := by
  induction m generalizing lo with
  | nil => rfl
  | cons c rest ih =>
    obtain ⟨b, w⟩ := c
    simp only [Memory.wfFrom, Bool.and_eq_true, decide_eq_true_eq] at hm
    rw [Memory.read, if_neg (by omega), ih hm.2 (by omega)]

/-- A listing above `lo` is one above anything smaller. -/
theorem Memory.wfFrom_weaken {lo lo' : Nat} {m : Memory} (hm : Memory.wfFrom lo m = true)
    (h : lo' ≤ lo) : Memory.wfFrom lo' m = true := by
  cases m with
  | nil => rfl
  | cons c rest =>
    obtain ⟨b, w⟩ := c
    simp only [Memory.wfFrom, Bool.and_eq_true, decide_eq_true_eq] at hm ⊢
    exact ⟨⟨by omega, hm.1.2⟩, hm.2⟩

/-- `put` in front of a listing that starts above it keeps the canonical form. -/
theorem Memory.put_wfFrom {lo i : Nat} {v : Byte} {m : Memory}
    (hm : Memory.wfFrom (i + 1) m = true) (hi : lo ≤ i) :
    Memory.wfFrom lo (Memory.put i v m) = true := by
  unfold Memory.put
  split
  · exact Memory.wfFrom_weaken hm (by omega)
  · simp [Memory.wfFrom, *]

/-- What `put` reads as. -/
theorem Memory.read_put {i j : Nat} {v : Byte} {m : Memory}
    (hm : Memory.wfFrom (i + 1) m = true) :
    Memory.read (Memory.put i v m) j = if i = j then v else Memory.read m j := by
  unfold Memory.put
  split
  · subst v
    split
    · subst j
      exact Memory.read_below hm (by omega)
    · rfl
  · rfl

/-- Writing keeps the canonical form. -/
theorem Memory.write_wfFrom {lo i : Nat} {v : Byte} {m : Memory}
    (hm : Memory.wfFrom lo m = true) (hi : lo ≤ i) :
    Memory.wfFrom lo (Memory.write m i v) = true := by
  induction m generalizing lo with
  | nil => exact Memory.put_wfFrom rfl hi
  | cons c rest ih =>
    obtain ⟨b, w⟩ := c
    have hm' := hm
    simp only [Memory.wfFrom, Bool.and_eq_true, decide_eq_true_eq] at hm'
    rw [Memory.write]
    split
    · simp only [Memory.wfFrom, Bool.and_eq_true, decide_eq_true_eq]
      exact ⟨hm'.1, ih hm'.2 (by omega)⟩
    · split
      · subst b
        exact Memory.put_wfFrom hm'.2 hi
      · refine Memory.put_wfFrom ?_ hi
        simp only [Memory.wfFrom, Bool.and_eq_true, decide_eq_true_eq]
        exact ⟨⟨by omega, hm'.1.2⟩, hm'.2⟩

/-- Writing keeps the canonical form of a whole listing. -/
theorem Memory.write_wf {m : Memory} (i : Nat) (v : Byte) (hm : Memory.wf m = true) :
    Memory.wf (Memory.write m i v) = true :=
  Memory.write_wfFrom hm (Nat.zero_le i)

/-- After a write every index reads as before but the one written. -/
theorem Memory.read_write_from {lo i j : Nat} {v : Byte} {m : Memory}
    (hm : Memory.wfFrom lo m = true) :
    Memory.read (Memory.write m i v) j = if i = j then v else Memory.read m j := by
  induction m generalizing lo with
  | nil => exact Memory.read_put rfl
  | cons c rest ih =>
    obtain ⟨b, w⟩ := c
    simp only [Memory.wfFrom, Bool.and_eq_true, decide_eq_true_eq] at hm
    rw [Memory.write]
    split
    · rw [Memory.read, ih hm.2, Memory.read]
      split <;> split <;> first | rfl | omega
    · split
      · subst b
        rw [Memory.read_put hm.2, Memory.read]
        split <;> rfl
      · apply Memory.read_put
        simp only [Memory.wfFrom, Bool.and_eq_true, decide_eq_true_eq]
        exact ⟨⟨by omega, hm.1.2⟩, hm.2⟩

/-- After a write every index reads as before but the one written. -/
theorem Memory.read_write {m : Memory} (i j : Nat) (v : Byte) (hm : Memory.wf m = true) :
    Memory.read (Memory.write m i v) j = if i = j then v else Memory.read m j :=
  Memory.read_write_from hm

/-- `put` below `n` lists nothing at or above `n`. -/
theorem Memory.put_within {n i : Nat} {v : Byte} {m : Memory}
    (hm : Memory.within n m = true) (hi : i < n) : Memory.within n (Memory.put i v m) = true := by
  unfold Memory.put
  split
  · exact hm
  · rw [Memory.within, List.all_cons, Bool.and_eq_true, decide_eq_true_eq]
    exact ⟨hi, hm⟩

/-- A write below `n` lists nothing at or above `n`. -/
theorem Memory.write_within {n i : Nat} {v : Byte} {m : Memory}
    (hm : Memory.within n m = true) (hi : i < n) : Memory.within n (Memory.write m i v) = true := by
  induction m with
  | nil => exact Memory.put_within hm hi
  | cons c rest ih =>
    obtain ⟨b, w⟩ := c
    have hm' := hm
    rw [Memory.within, List.all_cons, Bool.and_eq_true] at hm'
    rw [Memory.write]
    split
    · rw [Memory.within, List.all_cons, Bool.and_eq_true]
      exact ⟨hm'.1, ih hm'.2⟩
    · split
      · exact Memory.put_within hm'.2 hi
      · exact Memory.put_within hm hi

/-- Nothing listed is canonical: the buffers of `State.reset` (log 7). -/
theorem Memory.wf_nil : Memory.wf [] = true := rfl

end Sys2Proof.Machine
end

