-- ==== Sys2Proof/Laws/State.lean ====
section
/-! SUPPORT. One lemma per field per update of the state, all by `rfl`, so that no later proof unfolds a
record update. -/

namespace Sys2Proof.Machine

/-! ### giving -/

@[simp] theorem giving_cfg (r : Result) (s : State) : (State.giving r s).cfg = s.cfg := rfl
@[simp] theorem giving_status (r : Result) (s : State) : (State.giving r s).status = s.status := rfl
@[simp] theorem giving_vs (r : Result) (s : State) : (State.giving r s).vs = s.vs := rfl
@[simp] theorem giving_de (r : Result) (s : State) : (State.giving r s).de = s.de := rfl
@[simp] theorem giving_selR1 (r : Result) (s : State) : (State.giving r s).selR1 = s.selR1 := rfl
@[simp] theorem giving_selR2 (r : Result) (s : State) : (State.giving r s).selR2 = s.selR2 := rfl
@[simp] theorem giving_selR3 (r : Result) (s : State) : (State.giving r s).selR3 = s.selR3 := rfl
@[simp] theorem giving_selR4 (r : Result) (s : State) : (State.giving r s).selR4 = s.selR4 := rfl
@[simp] theorem giving_selW1 (r : Result) (s : State) : (State.giving r s).selW1 = s.selW1 := rfl
@[simp] theorem giving_selW2 (r : Result) (s : State) : (State.giving r s).selW2 = s.selW2 := rfl
@[simp] theorem giving_selW3 (r : Result) (s : State) : (State.giving r s).selW3 = s.selW3 := rfl
@[simp] theorem giving_selW4 (r : Result) (s : State) : (State.giving r s).selW4 = s.selW4 := rfl
@[simp] theorem giving_ram (r : Result) (s : State) : (State.giving r s).ram = s.ram := rfl
@[simp] theorem giving_vram (r : Result) (s : State) : (State.giving r s).vram = s.vram := rfl
@[simp] theorem giving_hires (r : Result) (s : State) : (State.giving r s).hires = s.hires := rfl
@[simp] theorem giving_booted (r : Result) (s : State) : (State.giving r s).booted = s.booted := rfl
@[simp] theorem giving_refused (r : Result) (s : State) :
    (State.giving r s).refused = s.refused := rfl
@[simp] theorem giving_feed (r : Result) (s : State) : (State.giving r s).feed = s.feed := rfl
@[simp] theorem giving_result (r : Result) (s : State) : (State.giving r s).result = r := rfl
@[simp] theorem giving_draws (r : Result) (s : State) : (State.giving r s).draws = s.draws := rfl

/-! ### latchStatus -/

@[simp] theorem latchStatus_cfg (d : Byte) (s : State) : (State.latchStatus d s).cfg = s.cfg := rfl
@[simp] theorem latchStatus_status (d : Byte) (s : State) :
    (State.latchStatus d s).status = d := rfl
@[simp] theorem latchStatus_vs (d : Byte) (s : State) : (State.latchStatus d s).vs = s.vs := rfl
@[simp] theorem latchStatus_de (d : Byte) (s : State) : (State.latchStatus d s).de = s.de := rfl
@[simp] theorem latchStatus_selR1 (d : Byte) (s : State) :
    (State.latchStatus d s).selR1 = s.selR1 := rfl
@[simp] theorem latchStatus_selR2 (d : Byte) (s : State) :
    (State.latchStatus d s).selR2 = s.selR2 := rfl
@[simp] theorem latchStatus_selR3 (d : Byte) (s : State) :
    (State.latchStatus d s).selR3 = s.selR3 := rfl
@[simp] theorem latchStatus_selR4 (d : Byte) (s : State) :
    (State.latchStatus d s).selR4 = s.selR4 := rfl
@[simp] theorem latchStatus_selW1 (d : Byte) (s : State) :
    (State.latchStatus d s).selW1 = s.selW1 := rfl
@[simp] theorem latchStatus_selW2 (d : Byte) (s : State) :
    (State.latchStatus d s).selW2 = s.selW2 := rfl
@[simp] theorem latchStatus_selW3 (d : Byte) (s : State) :
    (State.latchStatus d s).selW3 = s.selW3 := rfl
@[simp] theorem latchStatus_selW4 (d : Byte) (s : State) :
    (State.latchStatus d s).selW4 = s.selW4 := rfl
@[simp] theorem latchStatus_ram (d : Byte) (s : State) : (State.latchStatus d s).ram = s.ram := rfl
@[simp] theorem latchStatus_vram (d : Byte) (s : State) :
    (State.latchStatus d s).vram = s.vram := rfl
@[simp] theorem latchStatus_hires (d : Byte) (s : State) :
    (State.latchStatus d s).hires = s.hires := rfl
@[simp] theorem latchStatus_booted (d : Byte) (s : State) :
    (State.latchStatus d s).booted = s.booted := rfl
@[simp] theorem latchStatus_refused (d : Byte) (s : State) :
    (State.latchStatus d s).refused = s.refused := rfl
@[simp] theorem latchStatus_feed (d : Byte) (s : State) :
    (State.latchStatus d s).feed = s.feed := rfl
@[simp] theorem latchStatus_result (d : Byte) (s : State) :
    (State.latchStatus d s).result = s.result := rfl
@[simp] theorem latchStatus_draws (d : Byte) (s : State) :
    (State.latchStatus d s).draws = s.draws := rfl

/-! ### latchVs -/

@[simp] theorem latchVs_cfg (l : Bool) (s : State) : (State.latchVs l s).cfg = s.cfg := rfl
@[simp] theorem latchVs_status (l : Bool) (s : State) : (State.latchVs l s).status = s.status := rfl
@[simp] theorem latchVs_vs (l : Bool) (s : State) : (State.latchVs l s).vs = l := rfl
@[simp] theorem latchVs_de (l : Bool) (s : State) : (State.latchVs l s).de = s.de := rfl
@[simp] theorem latchVs_selR1 (l : Bool) (s : State) : (State.latchVs l s).selR1 = s.selR1 := rfl
@[simp] theorem latchVs_selR2 (l : Bool) (s : State) : (State.latchVs l s).selR2 = s.selR2 := rfl
@[simp] theorem latchVs_selR3 (l : Bool) (s : State) : (State.latchVs l s).selR3 = s.selR3 := rfl
@[simp] theorem latchVs_selR4 (l : Bool) (s : State) : (State.latchVs l s).selR4 = s.selR4 := rfl
@[simp] theorem latchVs_selW1 (l : Bool) (s : State) : (State.latchVs l s).selW1 = s.selW1 := rfl
@[simp] theorem latchVs_selW2 (l : Bool) (s : State) : (State.latchVs l s).selW2 = s.selW2 := rfl
@[simp] theorem latchVs_selW3 (l : Bool) (s : State) : (State.latchVs l s).selW3 = s.selW3 := rfl
@[simp] theorem latchVs_selW4 (l : Bool) (s : State) : (State.latchVs l s).selW4 = s.selW4 := rfl
@[simp] theorem latchVs_ram (l : Bool) (s : State) : (State.latchVs l s).ram = s.ram := rfl
@[simp] theorem latchVs_vram (l : Bool) (s : State) : (State.latchVs l s).vram = s.vram := rfl
@[simp] theorem latchVs_hires (l : Bool) (s : State) : (State.latchVs l s).hires = s.hires := rfl
@[simp] theorem latchVs_booted (l : Bool) (s : State) : (State.latchVs l s).booted = s.booted := rfl
@[simp] theorem latchVs_refused (l : Bool) (s : State) :
    (State.latchVs l s).refused = s.refused := rfl
@[simp] theorem latchVs_feed (l : Bool) (s : State) : (State.latchVs l s).feed = s.feed := rfl
@[simp] theorem latchVs_result (l : Bool) (s : State) : (State.latchVs l s).result = s.result := rfl
@[simp] theorem latchVs_draws (l : Bool) (s : State) : (State.latchVs l s).draws = s.draws := rfl

/-! ### latchDe -/

@[simp] theorem latchDe_cfg (l : Bool) (s : State) : (State.latchDe l s).cfg = s.cfg := rfl
@[simp] theorem latchDe_status (l : Bool) (s : State) : (State.latchDe l s).status = s.status := rfl
@[simp] theorem latchDe_vs (l : Bool) (s : State) : (State.latchDe l s).vs = s.vs := rfl
@[simp] theorem latchDe_de (l : Bool) (s : State) : (State.latchDe l s).de = l := rfl
@[simp] theorem latchDe_selR1 (l : Bool) (s : State) : (State.latchDe l s).selR1 = s.selR1 := rfl
@[simp] theorem latchDe_selR2 (l : Bool) (s : State) : (State.latchDe l s).selR2 = s.selR2 := rfl
@[simp] theorem latchDe_selR3 (l : Bool) (s : State) : (State.latchDe l s).selR3 = s.selR3 := rfl
@[simp] theorem latchDe_selR4 (l : Bool) (s : State) : (State.latchDe l s).selR4 = s.selR4 := rfl
@[simp] theorem latchDe_selW1 (l : Bool) (s : State) : (State.latchDe l s).selW1 = s.selW1 := rfl
@[simp] theorem latchDe_selW2 (l : Bool) (s : State) : (State.latchDe l s).selW2 = s.selW2 := rfl
@[simp] theorem latchDe_selW3 (l : Bool) (s : State) : (State.latchDe l s).selW3 = s.selW3 := rfl
@[simp] theorem latchDe_selW4 (l : Bool) (s : State) : (State.latchDe l s).selW4 = s.selW4 := rfl
@[simp] theorem latchDe_ram (l : Bool) (s : State) : (State.latchDe l s).ram = s.ram := rfl
@[simp] theorem latchDe_vram (l : Bool) (s : State) : (State.latchDe l s).vram = s.vram := rfl
@[simp] theorem latchDe_hires (l : Bool) (s : State) : (State.latchDe l s).hires = s.hires := rfl
@[simp] theorem latchDe_booted (l : Bool) (s : State) : (State.latchDe l s).booted = s.booted := rfl
@[simp] theorem latchDe_refused (l : Bool) (s : State) :
    (State.latchDe l s).refused = s.refused := rfl
@[simp] theorem latchDe_feed (l : Bool) (s : State) : (State.latchDe l s).feed = s.feed := rfl
@[simp] theorem latchDe_result (l : Bool) (s : State) : (State.latchDe l s).result = s.result := rfl
@[simp] theorem latchDe_draws (l : Bool) (s : State) : (State.latchDe l s).draws = s.draws := rfl

/-! ### select -/

@[simp] theorem select_cfg (r1 : SelR1) (r2 r3 : SelRom) (w2 : SelVid) (w3 w4 : SelHires) (s : State) :
    (State.select r1 r2 r3 w2 w3 w4 s).cfg = s.cfg := rfl
@[simp] theorem select_status (r1 : SelR1) (r2 r3 : SelRom) (w2 : SelVid) (w3 w4 : SelHires) (s : State) :
    (State.select r1 r2 r3 w2 w3 w4 s).status = s.status := rfl
@[simp] theorem select_vs (r1 : SelR1) (r2 r3 : SelRom) (w2 : SelVid) (w3 w4 : SelHires) (s : State) :
    (State.select r1 r2 r3 w2 w3 w4 s).vs = s.vs := rfl
@[simp] theorem select_de (r1 : SelR1) (r2 r3 : SelRom) (w2 : SelVid) (w3 w4 : SelHires) (s : State) :
    (State.select r1 r2 r3 w2 w3 w4 s).de = s.de := rfl
@[simp] theorem select_selR1 (r1 : SelR1) (r2 r3 : SelRom) (w2 : SelVid) (w3 w4 : SelHires) (s : State) :
    (State.select r1 r2 r3 w2 w3 w4 s).selR1 = r1 := rfl
@[simp] theorem select_selR2 (r1 : SelR1) (r2 r3 : SelRom) (w2 : SelVid) (w3 w4 : SelHires) (s : State) :
    (State.select r1 r2 r3 w2 w3 w4 s).selR2 = r2 := rfl
@[simp] theorem select_selR3 (r1 : SelR1) (r2 r3 : SelRom) (w2 : SelVid) (w3 w4 : SelHires) (s : State) :
    (State.select r1 r2 r3 w2 w3 w4 s).selR3 = r3 := rfl
@[simp] theorem select_selR4 (r1 : SelR1) (r2 r3 : SelRom) (w2 : SelVid) (w3 w4 : SelHires) (s : State) :
    (State.select r1 r2 r3 w2 w3 w4 s).selR4 = s.selR4 := rfl
@[simp] theorem select_selW1 (r1 : SelR1) (r2 r3 : SelRom) (w2 : SelVid) (w3 w4 : SelHires) (s : State) :
    (State.select r1 r2 r3 w2 w3 w4 s).selW1 = s.selW1 := rfl
@[simp] theorem select_selW2 (r1 : SelR1) (r2 r3 : SelRom) (w2 : SelVid) (w3 w4 : SelHires) (s : State) :
    (State.select r1 r2 r3 w2 w3 w4 s).selW2 = w2 := rfl
@[simp] theorem select_selW3 (r1 : SelR1) (r2 r3 : SelRom) (w2 : SelVid) (w3 w4 : SelHires) (s : State) :
    (State.select r1 r2 r3 w2 w3 w4 s).selW3 = w3 := rfl
@[simp] theorem select_selW4 (r1 : SelR1) (r2 r3 : SelRom) (w2 : SelVid) (w3 w4 : SelHires) (s : State) :
    (State.select r1 r2 r3 w2 w3 w4 s).selW4 = w4 := rfl
@[simp] theorem select_ram (r1 : SelR1) (r2 r3 : SelRom) (w2 : SelVid) (w3 w4 : SelHires) (s : State) :
    (State.select r1 r2 r3 w2 w3 w4 s).ram = s.ram := rfl
@[simp] theorem select_vram (r1 : SelR1) (r2 r3 : SelRom) (w2 : SelVid) (w3 w4 : SelHires) (s : State) :
    (State.select r1 r2 r3 w2 w3 w4 s).vram = s.vram := rfl
@[simp] theorem select_hires (r1 : SelR1) (r2 r3 : SelRom) (w2 : SelVid) (w3 w4 : SelHires) (s : State) :
    (State.select r1 r2 r3 w2 w3 w4 s).hires = s.hires := rfl
@[simp] theorem select_booted (r1 : SelR1) (r2 r3 : SelRom) (w2 : SelVid) (w3 w4 : SelHires) (s : State) :
    (State.select r1 r2 r3 w2 w3 w4 s).booted = s.booted := rfl
@[simp] theorem select_refused (r1 : SelR1) (r2 r3 : SelRom) (w2 : SelVid) (w3 w4 : SelHires) (s : State) :
    (State.select r1 r2 r3 w2 w3 w4 s).refused = s.refused := rfl
@[simp] theorem select_feed (r1 : SelR1) (r2 r3 : SelRom) (w2 : SelVid) (w3 w4 : SelHires) (s : State) :
    (State.select r1 r2 r3 w2 w3 w4 s).feed = s.feed := rfl
@[simp] theorem select_result (r1 : SelR1) (r2 r3 : SelRom) (w2 : SelVid) (w3 w4 : SelHires) (s : State) :
    (State.select r1 r2 r3 w2 w3 w4 s).result = s.result := rfl
@[simp] theorem select_draws (r1 : SelR1) (r2 r3 : SelRom) (w2 : SelVid) (w3 w4 : SelHires) (s : State) :
    (State.select r1 r2 r3 w2 w3 w4 s).draws = s.draws := rfl

/-! ### overrideRomHi -/

@[simp] theorem overrideRomHi_cfg (s : State) : (overrideRomHi s).cfg = s.cfg := rfl
@[simp] theorem overrideRomHi_status (s : State) : (overrideRomHi s).status = s.status := rfl
@[simp] theorem overrideRomHi_vs (s : State) : (overrideRomHi s).vs = s.vs := rfl
@[simp] theorem overrideRomHi_de (s : State) : (overrideRomHi s).de = s.de := rfl
@[simp] theorem overrideRomHi_selR1 (s : State) : (overrideRomHi s).selR1 = .romHi := rfl
@[simp] theorem overrideRomHi_selR2 (s : State) : (overrideRomHi s).selR2 = s.selR2 := rfl
@[simp] theorem overrideRomHi_selR3 (s : State) : (overrideRomHi s).selR3 = s.selR3 := rfl
@[simp] theorem overrideRomHi_selR4 (s : State) : (overrideRomHi s).selR4 = s.selR4 := rfl
@[simp] theorem overrideRomHi_selW1 (s : State) : (overrideRomHi s).selW1 = s.selW1 := rfl
@[simp] theorem overrideRomHi_selW2 (s : State) : (overrideRomHi s).selW2 = s.selW2 := rfl
@[simp] theorem overrideRomHi_selW3 (s : State) : (overrideRomHi s).selW3 = s.selW3 := rfl
@[simp] theorem overrideRomHi_selW4 (s : State) : (overrideRomHi s).selW4 = s.selW4 := rfl
@[simp] theorem overrideRomHi_ram (s : State) : (overrideRomHi s).ram = s.ram := rfl
@[simp] theorem overrideRomHi_vram (s : State) : (overrideRomHi s).vram = s.vram := rfl
@[simp] theorem overrideRomHi_hires (s : State) : (overrideRomHi s).hires = s.hires := rfl
@[simp] theorem overrideRomHi_booted (s : State) : (overrideRomHi s).booted = s.booted := rfl
@[simp] theorem overrideRomHi_refused (s : State) : (overrideRomHi s).refused = s.refused := rfl
@[simp] theorem overrideRomHi_feed (s : State) : (overrideRomHi s).feed = s.feed := rfl
@[simp] theorem overrideRomHi_result (s : State) : (overrideRomHi s).result = s.result := rfl
@[simp] theorem overrideRomHi_draws (s : State) : (overrideRomHi s).draws = s.draws := rfl

/-! ### machineReset -/

@[simp] theorem machineReset_cfg (s : State) : (State.machineReset s).cfg = s.cfg := rfl
@[simp] theorem machineReset_status (s : State) :
    (State.machineReset s).status = Config.resetStatus s.draws := rfl
@[simp] theorem machineReset_vs (s : State) :
    (State.machineReset s).vs = Config.resetVs s.draws := rfl
@[simp] theorem machineReset_de (s : State) :
    (State.machineReset s).de = Config.resetDe s.draws := rfl
@[simp] theorem machineReset_selR1 (s : State) : (State.machineReset s).selR1 = .rom := rfl
@[simp] theorem machineReset_selR2 (s : State) : (State.machineReset s).selR2 = .rom := rfl
@[simp] theorem machineReset_selR3 (s : State) : (State.machineReset s).selR3 = .rom := rfl
@[simp] theorem machineReset_selR4 (s : State) : (State.machineReset s).selR4 = .ram := rfl
@[simp] theorem machineReset_selW1 (s : State) : (State.machineReset s).selW1 = .ram := rfl
@[simp] theorem machineReset_selW2 (s : State) : (State.machineReset s).selW2 = .vid := rfl
@[simp] theorem machineReset_selW3 (s : State) : (State.machineReset s).selW3 = .hires := rfl
@[simp] theorem machineReset_selW4 (s : State) : (State.machineReset s).selW4 = .ram := rfl
@[simp] theorem machineReset_ram (s : State) : (State.machineReset s).ram = s.ram := rfl
@[simp] theorem machineReset_vram (s : State) : (State.machineReset s).vram = s.vram := rfl
@[simp] theorem machineReset_hires (s : State) : (State.machineReset s).hires = s.hires := rfl
@[simp] theorem machineReset_booted (s : State) : (State.machineReset s).booted = true := rfl
@[simp] theorem machineReset_refused (s : State) : (State.machineReset s).refused = s.refused := rfl
@[simp] theorem machineReset_feed (s : State) : (State.machineReset s).feed = s.feed := rfl
@[simp] theorem machineReset_result (s : State) : (State.machineReset s).result = s.result := rfl
@[simp] theorem machineReset_draws (s : State) : (State.machineReset s).draws = s.draws + 1 := rfl

/-! ### turnDown -/

@[simp] theorem turnDown_cfg (why : RefuseReason) (s : State) :
    (State.turnDown why s).cfg = s.cfg := rfl
@[simp] theorem turnDown_status (why : RefuseReason) (s : State) :
    (State.turnDown why s).status = s.status := rfl
@[simp] theorem turnDown_vs (why : RefuseReason) (s : State) :
    (State.turnDown why s).vs = s.vs := rfl
@[simp] theorem turnDown_de (why : RefuseReason) (s : State) :
    (State.turnDown why s).de = s.de := rfl
@[simp] theorem turnDown_selR1 (why : RefuseReason) (s : State) :
    (State.turnDown why s).selR1 = s.selR1 := rfl
@[simp] theorem turnDown_selR2 (why : RefuseReason) (s : State) :
    (State.turnDown why s).selR2 = s.selR2 := rfl
@[simp] theorem turnDown_selR3 (why : RefuseReason) (s : State) :
    (State.turnDown why s).selR3 = s.selR3 := rfl
@[simp] theorem turnDown_selR4 (why : RefuseReason) (s : State) :
    (State.turnDown why s).selR4 = s.selR4 := rfl
@[simp] theorem turnDown_selW1 (why : RefuseReason) (s : State) :
    (State.turnDown why s).selW1 = s.selW1 := rfl
@[simp] theorem turnDown_selW2 (why : RefuseReason) (s : State) :
    (State.turnDown why s).selW2 = s.selW2 := rfl
@[simp] theorem turnDown_selW3 (why : RefuseReason) (s : State) :
    (State.turnDown why s).selW3 = s.selW3 := rfl
@[simp] theorem turnDown_selW4 (why : RefuseReason) (s : State) :
    (State.turnDown why s).selW4 = s.selW4 := rfl
@[simp] theorem turnDown_ram (why : RefuseReason) (s : State) :
    (State.turnDown why s).ram = s.ram := rfl
@[simp] theorem turnDown_vram (why : RefuseReason) (s : State) :
    (State.turnDown why s).vram = s.vram := rfl
@[simp] theorem turnDown_hires (why : RefuseReason) (s : State) :
    (State.turnDown why s).hires = s.hires := rfl
@[simp] theorem turnDown_booted (why : RefuseReason) (s : State) :
    (State.turnDown why s).booted = s.booted := rfl
@[simp] theorem turnDown_refused (why : RefuseReason) (s : State) :
    (State.turnDown why s).refused = true := rfl
@[simp] theorem turnDown_feed (why : RefuseReason) (s : State) :
    (State.turnDown why s).feed = s.feed := rfl
@[simp] theorem turnDown_result (why : RefuseReason) (s : State) :
    (State.turnDown why s).result = .refused why := rfl
@[simp] theorem turnDown_draws (why : RefuseReason) (s : State) :
    (State.turnDown why s).draws = s.draws := rfl

/-! ### awaiting -/

@[simp] theorem awaiting_cfg (rest : List TxnWord) (s : State) :
    (State.awaiting rest s).cfg = s.cfg := rfl
@[simp] theorem awaiting_status (rest : List TxnWord) (s : State) :
    (State.awaiting rest s).status = s.status := rfl
@[simp] theorem awaiting_vs (rest : List TxnWord) (s : State) :
    (State.awaiting rest s).vs = s.vs := rfl
@[simp] theorem awaiting_de (rest : List TxnWord) (s : State) :
    (State.awaiting rest s).de = s.de := rfl
@[simp] theorem awaiting_selR1 (rest : List TxnWord) (s : State) :
    (State.awaiting rest s).selR1 = s.selR1 := rfl
@[simp] theorem awaiting_selR2 (rest : List TxnWord) (s : State) :
    (State.awaiting rest s).selR2 = s.selR2 := rfl
@[simp] theorem awaiting_selR3 (rest : List TxnWord) (s : State) :
    (State.awaiting rest s).selR3 = s.selR3 := rfl
@[simp] theorem awaiting_selR4 (rest : List TxnWord) (s : State) :
    (State.awaiting rest s).selR4 = s.selR4 := rfl
@[simp] theorem awaiting_selW1 (rest : List TxnWord) (s : State) :
    (State.awaiting rest s).selW1 = s.selW1 := rfl
@[simp] theorem awaiting_selW2 (rest : List TxnWord) (s : State) :
    (State.awaiting rest s).selW2 = s.selW2 := rfl
@[simp] theorem awaiting_selW3 (rest : List TxnWord) (s : State) :
    (State.awaiting rest s).selW3 = s.selW3 := rfl
@[simp] theorem awaiting_selW4 (rest : List TxnWord) (s : State) :
    (State.awaiting rest s).selW4 = s.selW4 := rfl
@[simp] theorem awaiting_ram (rest : List TxnWord) (s : State) :
    (State.awaiting rest s).ram = s.ram := rfl
@[simp] theorem awaiting_vram (rest : List TxnWord) (s : State) :
    (State.awaiting rest s).vram = s.vram := rfl
@[simp] theorem awaiting_hires (rest : List TxnWord) (s : State) :
    (State.awaiting rest s).hires = s.hires := rfl
@[simp] theorem awaiting_booted (rest : List TxnWord) (s : State) :
    (State.awaiting rest s).booted = s.booted := rfl
@[simp] theorem awaiting_refused (rest : List TxnWord) (s : State) :
    (State.awaiting rest s).refused = s.refused := rfl
@[simp] theorem awaiting_feed (rest : List TxnWord) (s : State) :
    (State.awaiting rest s).feed = rest := rfl
@[simp] theorem awaiting_result (rest : List TxnWord) (s : State) :
    (State.awaiting rest s).result = s.result := rfl
@[simp] theorem awaiting_draws (rest : List TxnWord) (s : State) :
    (State.awaiting rest s).draws = s.draws := rfl

/-! ### poke -/

@[simp] theorem poke_cfg (s : State) (b : WriteBuffer) (i : Nat) (v : Byte) :
    (s.poke b i v).cfg = s.cfg := by cases b <;> rfl
@[simp] theorem poke_status (s : State) (b : WriteBuffer) (i : Nat) (v : Byte) :
    (s.poke b i v).status = s.status := by cases b <;> rfl
@[simp] theorem poke_vs (s : State) (b : WriteBuffer) (i : Nat) (v : Byte) :
    (s.poke b i v).vs = s.vs := by cases b <;> rfl
@[simp] theorem poke_de (s : State) (b : WriteBuffer) (i : Nat) (v : Byte) :
    (s.poke b i v).de = s.de := by cases b <;> rfl
@[simp] theorem poke_selR1 (s : State) (b : WriteBuffer) (i : Nat) (v : Byte) :
    (s.poke b i v).selR1 = s.selR1 := by cases b <;> rfl
@[simp] theorem poke_selR2 (s : State) (b : WriteBuffer) (i : Nat) (v : Byte) :
    (s.poke b i v).selR2 = s.selR2 := by cases b <;> rfl
@[simp] theorem poke_selR3 (s : State) (b : WriteBuffer) (i : Nat) (v : Byte) :
    (s.poke b i v).selR3 = s.selR3 := by cases b <;> rfl
@[simp] theorem poke_selR4 (s : State) (b : WriteBuffer) (i : Nat) (v : Byte) :
    (s.poke b i v).selR4 = s.selR4 := by cases b <;> rfl
@[simp] theorem poke_selW1 (s : State) (b : WriteBuffer) (i : Nat) (v : Byte) :
    (s.poke b i v).selW1 = s.selW1 := by cases b <;> rfl
@[simp] theorem poke_selW2 (s : State) (b : WriteBuffer) (i : Nat) (v : Byte) :
    (s.poke b i v).selW2 = s.selW2 := by cases b <;> rfl
@[simp] theorem poke_selW3 (s : State) (b : WriteBuffer) (i : Nat) (v : Byte) :
    (s.poke b i v).selW3 = s.selW3 := by cases b <;> rfl
@[simp] theorem poke_selW4 (s : State) (b : WriteBuffer) (i : Nat) (v : Byte) :
    (s.poke b i v).selW4 = s.selW4 := by cases b <;> rfl
@[simp] theorem poke_booted (s : State) (b : WriteBuffer) (i : Nat) (v : Byte) :
    (s.poke b i v).booted = s.booted := by cases b <;> rfl
@[simp] theorem poke_refused (s : State) (b : WriteBuffer) (i : Nat) (v : Byte) :
    (s.poke b i v).refused = s.refused := by cases b <;> rfl
@[simp] theorem poke_feed (s : State) (b : WriteBuffer) (i : Nat) (v : Byte) :
    (s.poke b i v).feed = s.feed := by cases b <;> rfl
@[simp] theorem poke_result (s : State) (b : WriteBuffer) (i : Nat) (v : Byte) :
    (s.poke b i v).result = s.result := by cases b <;> rfl
@[simp] theorem poke_draws (s : State) (b : WriteBuffer) (i : Nat) (v : Byte) :
    (s.poke b i v).draws = s.draws := by cases b <;> rfl

/-- Only the buffer written to changes (R18). -/
theorem poke_writable (s : State) (b b' : WriteBuffer) (i : Nat) (v : Byte) :
    (s.poke b i v).writable b' =
      if b' = b then Memory.write (s.writable b) i v else s.writable b' := by
  cases b <;> cases b' <;> rfl

/-- A write of one byte is a new listing in one of the three buffers. -/
theorem poke_eq (s : State) (b : WriteBuffer) (i : Nat) (v : Byte) :
    s.poke b i v =
      { s with
        ram := (s.poke b i v).writable .ram
        vram := (s.poke b i v).writable .vram
        hires := (s.poke b i v).writable .hires } := by
  cases b <;> rfl

end Sys2Proof.Machine
end

