-- ==== Sys2Proof/Laws/Words.lean ====
section
/-! SUPPORT. Bit fields and concatenations as arithmetic on numbers, so that `omega` decides questions
about them. -/

namespace Sys2Proof

/-- A concatenation is a sum: the high part shifted by the low part's width. -/
theorem toNat_append_add {m n : Nat} (x : BitVec m) (y : BitVec n) :
    (x ++ y).toNat = x.toNat * 2 ^ n + y.toNat := by
  rw [BitVec.toNat_append, ← Nat.shiftLeft_add_eq_or_of_lt y.isLt, Nat.shiftLeft_eq]

/-- A bit field is a quotient's remainder. -/
theorem toNat_field {n : Nat} (x : BitVec n) (lo k : Nat) :
    (x.extractLsb' lo k).toNat = x.toNat / 2 ^ lo % 2 ^ k := by
  rw [BitVec.extractLsb'_toNat, Nat.shiftRight_eq_div_pow]

/-- A bit is a quotient's parity. -/
theorem getLsbD_eq_decide {n : Nat} (x : BitVec n) (i : Nat) :
    x.getLsbD i = decide (x.toNat / 2 ^ i % 2 = 1) := by
  rw [BitVec.getLsbD, Nat.testBit_eq_decide_div_mod_eq]

/-- Masking with a run of `k` ones from bit `lo` keeps that field in its place. -/
theorem land_run (t lo k : Nat) : t &&& ((2 ^ k - 1) <<< lo) = (t / 2 ^ lo % 2 ^ k) * 2 ^ lo := by
  apply Nat.eq_of_testBit_eq
  intro i
  rw [Nat.testBit_and, Nat.testBit_shiftLeft, Nat.testBit_two_pow_sub_one, ← Nat.shiftLeft_eq,
    Nat.testBit_shiftLeft, Nat.testBit_mod_two_pow, Nat.testBit_div_two_pow]
  by_cases h : lo ≤ i
  · have : lo + (i - lo) = i := by omega
    simp [h, Bool.and_comm]
  · simp [h]

/-- Masking with two runs of ones, the lower one below bit `lo`, adds the two fields. -/
theorem land_two_runs (t lo k j : Nat) (hj : j ≤ lo) :
    t &&& ((2 ^ k - 1) <<< lo ||| (2 ^ j - 1)) = (t / 2 ^ lo % 2 ^ k) * 2 ^ lo + t % 2 ^ j := by
  have hlow : t % 2 ^ j < 2 ^ lo :=
    lt_of_lt_of_le (Nat.mod_lt _ (by positivity)) (Nat.pow_le_pow_right (by omega) hj)
  rw [Nat.and_or_distrib_left, land_run, Nat.and_two_pow_sub_one_eq_mod, ← Nat.shiftLeft_eq,
    Nat.shiftLeft_add_eq_or_of_lt hlow]

/-- A masked word has a value exactly when its number does. -/
theorem land_eq_iff {n : Nat} (t m v : BitVec n) :
    t &&& m = v ↔ t.toNat &&& m.toNat = v.toNat := by
  rw [BitVec.toNat_eq, BitVec.toNat_and]

/-- The kind of a transaction word is its top byte (R60). -/
theorem txnKind_toNat (t : TxnWord) : (txnKind t).toNat = t.toNat / 2 ^ 56 := by
  have := t.isLt
  rw [txnKind, toNat_field]
  omega

/-- `ifZero` accepts exactly when the must-be-zero bits are zero. -/
theorem ifZero_eq_ok {k : Nat} (mbz : BitVec k) (i j : Instr) :
    ifZero mbz i = .ok j ↔ mbz.toNat = 0 ∧ i = j := by
  have hz : mbz = 0#k ↔ mbz.toNat = 0 := by rw [BitVec.toNat_eq]; simp
  unfold ifZero
  split <;> simp_all

/-- A byte of a class decodes to that class with itself as operand. -/
theorem decodeCtrl_operand (d : Byte) :
    decodeCtrl d = .ctrlFullram d ∨ decodeCtrl d = .ctrlRomHiresw4 d ∨
      decodeCtrl d = .ctrlRomHiresw4Hi d ∨ decodeCtrl d = .ctrlRomRamw4 d ∨
      decodeCtrl d = .ctrlRomRamw4Hi d := by
  unfold decodeCtrl
  split <;> [simp; split <;> split <;> simp]

end Sys2Proof
end

