-- ==== Sys2Proof/Laws/Ops.lean ====
section
/-! SUPPORT. One lemma for each shared operation, saying everything it can do; later proofs cite these
and do not unfold the operation. -/

namespace Sys2Proof.Machine

/-! ### Accepting and refusing -/

/-- A transaction under a well-formed configuration. -/
theorem accepted_of_wf {s : State} (answer : Answer) (h : s.cfg.wf = true) :
    s.accepted answer = answer := if_pos h

/-- A transaction under an ill-formed configuration. -/
theorem accepted_of_ill {s : State} (answer : Answer) (h : s.cfg.wf = false) :
    s.accepted answer = .next (s.turnDown .cfgIllFormed) := by
  simp [State.accepted, State.refuse, h]

/-- A transaction of the booted block under a well-formed configuration. -/
theorem whenBooted_of_ready {s : State} (answer : Answer) (h : s.Ready) :
    s.whenBooted answer = answer := by
  rw [State.whenBooted, accepted_of_wf _ h.1, if_pos h.2]

/-- A transaction before the first `RESET`. -/
theorem whenBooted_of_unbooted {s : State} (answer : Answer) (hc : s.cfg.wf = true)
    (hb : s.booted = false) : s.whenBooted answer = .next (s.turnDown .notBooted) := by
  simp [State.whenBooted, State.accepted, State.refuse, hc, hb]

/-- What `accepted` can answer. -/
theorem accepted_cases (s : State) (answer : Answer) :
    s.cfg.wf = true ∧ s.accepted answer = answer ∨
      s.cfg.wf = false ∧ s.accepted answer = .next (s.turnDown .cfgIllFormed) := by
  cases h : s.cfg.wf
  · exact .inr ⟨rfl, accepted_of_ill answer h⟩
  · exact .inl ⟨rfl, accepted_of_wf answer h⟩

/-- What `whenBooted` can answer. -/
theorem whenBooted_cases (s : State) (answer : Answer) :
    s.Ready ∧ s.whenBooted answer = answer ∨
      s.cfg.wf = true ∧ s.booted = false ∧ s.whenBooted answer = .next (s.turnDown .notBooted) ∨
      s.cfg.wf = false ∧ s.whenBooted answer = .next (s.turnDown .cfgIllFormed) := by
  cases hc : s.cfg.wf
  · exact .inr (.inr ⟨rfl, accepted_of_ill _ hc⟩)
  · cases hb : s.booted
    · exact .inr (.inl ⟨rfl, rfl, whenBooted_of_unbooted answer hc hb⟩)
    · exact .inl ⟨⟨hc, hb⟩, whenBooted_of_ready answer ⟨hc, hb⟩⟩

/-- An input that spells no transaction is turned down, for one of the three reasons. -/
theorem rejectInput_eq (why : Reject) (s : State) :
    s.rejectInput why =
      .next (s.turnDown (if s.cfg.wf then rejectReason why else .cfgIllFormed)) := by
  unfold State.rejectInput State.accepted State.refuse
  split <;> simp

/-! ### The configuration -/

/-- The items of R40 as propositions. -/
theorem Cfg_wf_items {c : Cfg} (h : c.wf = true) :
    (1 ≤ c.win1.size ∧ c.win1.base + c.win1.size ≤ 0x10000) ∧
    (1 ≤ c.win2.size ∧ c.win2.base + c.win2.size ≤ 0x10000) ∧
    (1 ≤ c.win3.size ∧ c.win3.base + c.win3.size ≤ 0x10000) ∧
    (1 ≤ c.win4.size ∧ c.win4.base + c.win4.size ≤ 0x10000) ∧
    (c.win1.base + c.win1.size ≤ c.win2.base ∨ c.win2.base + c.win2.size ≤ c.win1.base) ∧
    (c.win1.base + c.win1.size ≤ c.win3.base ∨ c.win3.base + c.win3.size ≤ c.win1.base) ∧
    (c.win1.base + c.win1.size ≤ c.win4.base ∨ c.win4.base + c.win4.size ≤ c.win1.base) ∧
    (c.win2.base + c.win2.size ≤ c.win3.base ∨ c.win3.base + c.win3.size ≤ c.win2.base) ∧
    (c.win2.base + c.win2.size ≤ c.win4.base ∨ c.win4.base + c.win4.size ≤ c.win2.base) ∧
    (c.win3.base + c.win3.size ≤ c.win4.base ∨ c.win4.base + c.win4.size ≤ c.win3.base) ∧
    0x2000 + c.win1.size ≤ c.rom1Size ∧
    c.romviewR2.off + c.win2.size ≤ c.romSize c.romviewR2.bank ∧
    c.romviewR3.off + c.win3.size ≤ c.romSize c.romviewR3.bank ∧
    c.win2.size ≤ 0x1000 ∧ 0x1000 ≤ c.hiresSize ∧ c.win3.size ≤ c.hiresSize ∧
    c.hiresW4Off + c.win4.size ≤ c.hiresSize := by
  simp only [Cfg.wf, Window.inSpace, Window.apart, Bool.and_eq_true, Bool.or_eq_true,
    decide_eq_true_eq] at h
  obtain ⟨⟨⟨⟨⟨⟨⟨⟨⟨⟨⟨⟨⟨⟨⟨⟨⟨⟨⟨⟨⟨⟨h1, h2⟩, h3⟩, h4⟩, h5⟩, h6⟩, h7⟩, h8⟩, h9⟩, h10⟩, h11⟩, h12⟩,
    h13⟩, h14⟩, h15⟩, h16⟩, h17⟩, -⟩, -⟩, -⟩, -⟩, -⟩, -⟩ := h
  exact ⟨h1, h2, h3, h4, h5, h6, h7, h8, h9, h10, h11, h12, h13, h14, h15, h16, h17⟩

/-- `covers` as a proposition (R31). -/
theorem Window_covers {w : Window} {a : Nat} :
    w.covers a = true ↔ w.base ≤ a ∧ a < w.base + w.size := by
  simp [Window.covers]

/-! ### Resolving -/

/-- The window found covers the address. -/
theorem windowOf_covers {c : Cfg} {a : Nat} {k : Win} (h : windowOf c a = some k) :
    (winRange c k).covers a = true := by
  unfold windowOf at h
  split at h
  · cases h; assumption
  · split at h
    · cases h; assumption
    · split at h
      · cases h; assumption
      · split at h
        · cases h; assumption
        · cases h

/-- Under a well-formed configuration the window found is the one that covers the address. -/
theorem windowOf_of_covers {c : Cfg} {a : Nat} (hc : c.wf = true) (k : Win)
    (h : (winRange c k).covers a = true) : windowOf c a = some k := by
  have items := Cfg_wf_items hc
  unfold windowOf
  cases k <;> simp only [winRange] at h
  · rw [if_pos h]
  all_goals
    simp only [Window_covers] at h ⊢
    repeat rw [if_neg (by omega)]
    rw [if_pos h]

/-- No window is found exactly in the fixed region (R32). -/
theorem windowOf_eq_none {c : Cfg} {a : Nat} :
    windowOf c a = none ↔ ∀ k, (winRange c k).covers a = false := by
  constructor
  · intro h k
    unfold windowOf at h
    cases k <;> simp only [winRange] <;> grind
  · intro h
    have h1 := h .w1; have h2 := h .w2; have h3 := h .w3; have h4 := h .w4
    simp only [winRange] at h1 h2 h3 h4
    simp [windowOf, h1, h2, h3, h4]

/-- A read window's base offset leaves room for the whole window in its buffer (R40). -/
theorem readPair_room {s : State} (hc : s.cfg.wf = true) (k : Win) :
    (s.readPair k).2 + (winRange s.cfg k).size ≤ readSize s.cfg (s.readPair k).1 := by
  have items := Cfg_wf_items hc
  have rom2 : readSize s.cfg (romBuffer s.cfg.romviewR2.bank) =
      s.cfg.romSize s.cfg.romviewR2.bank := by cases s.cfg.romviewR2.bank <;> rfl
  have rom3 : readSize s.cfg (romBuffer s.cfg.romviewR3.bank) =
      s.cfg.romSize s.cfg.romviewR3.bank := by cases s.cfg.romviewR3.bank <;> rfl
  cases k
  · cases h : s.selR1 <;> simp only [State.readPair, h, winRange, readSize, Config.ramSize] <;> omega
  · cases h : s.selR2
    · simp only [State.readPair, romEntry, h, winRange, readSize, Config.ramSize]
      omega
    · simp only [State.readPair, romEntry, h, winRange, rom2]
      omega
  · cases h : s.selR3
    · simp only [State.readPair, romEntry, h, winRange, readSize, Config.ramSize]
      omega
    · simp only [State.readPair, romEntry, h, winRange, rom3]
      omega
  · simp only [State.readPair, winRange, readSize, Config.ramSize]
    omega

/-- A write window's base offset leaves room for the whole window in its buffer (R40). -/
theorem writePair_room {s : State} (hc : s.cfg.wf = true) (k : Win) :
    (s.writePair k).2 + (winRange s.cfg k).size ≤ writeSize s.cfg (s.writePair k).1 := by
  have items := Cfg_wf_items hc
  cases k
  · simp only [State.writePair, winRange, writeSize, Config.ramSize]
    omega
  · cases h : s.selW2 <;>
      simp only [State.writePair, h, winRange, writeSize, Config.ramSize, Config.vramSize] <;> omega
  · cases h : s.selW3 <;>
      simp only [State.writePair, hiresEntry, h, winRange, writeSize, Config.ramSize] <;> omega
  · cases h : s.selW4 <;>
      simp only [State.writePair, hiresEntry, h, winRange, writeSize, Config.ramSize] <;> omega

/-- Every index a read resolves to is inside its buffer (R40). -/
theorem resolveRead_inside {s : State} (hc : s.cfg.wf = true) (a : CpuAddr) :
    (s.resolveRead a).2 < readSize s.cfg (s.resolveRead a).1 := by
  have ha := a.isLt
  unfold State.resolveRead
  split
  · rename_i k hk
    have hw := Window_covers.mp (windowOf_covers hk)
    have hroom := readPair_room hc k
    simp only
    omega
  · exact ha

/-- Every index a write resolves to is inside its buffer (R40). -/
theorem resolveWrite_inside {s : State} (hc : s.cfg.wf = true) (a : CpuAddr) :
    (s.resolveWrite a).2 < writeSize s.cfg (s.resolveWrite a).1 := by
  have ha := a.isLt
  unfold State.resolveWrite
  split
  · rename_i k hk
    have hw := Window_covers.mp (windowOf_covers hk)
    have hroom := writePair_room hc k
    simp only
    omega
  · exact ha

/-- Every row is inside its buffers (R95). -/
theorem rowInside_of_wf {s : State} (hc : s.cfg.wf = true) (base : BitVec 16) (ra : BitVec 4)
    (n : Nat) : s.rowInside base ra n = true := by
  have items := Cfg_wf_items hc
  simp only [State.rowInside, Bool.or_eq_true, decide_eq_true_eq]
  exact .inl (by omega)

/-! ### Control bytes -/

/-- What a control byte does, in one update (R65, R71). -/
theorem applyControlByte_eq (d : Byte) (s : State) :
    applyControlByte d s =
      s.select (if d.getLsbD 1 then .ram else if d.getLsbD 5 then .romHi else .rom)
        (if d.getLsbD 1 then .ram else .rom) (if d.getLsbD 1 then .ram else .rom)
        (if d.getLsbD 1 then .ram else .vid) (if d.getLsbD 1 then .ram else .hires)
        (if d.getLsbD 1 then .ram else if d.getLsbD 0 then .hires else .ram) := by
  unfold applyControlByte
  cases d.getLsbD 1 <;> cases d.getLsbD 0 <;> cases d.getLsbD 5 <;> rfl

/-! ### Rows of pixels -/

/-- A glyph expands to eight pixels. -/
theorem expandGlyph_length (g : Byte) (fg bg : PalIndex) : (expandGlyph g fg bg).length = 8 := rfl

/-- Pixel `i` of a glyph (R57). -/
theorem expandGlyph_pixel (g : Byte) (fg bg : PalIndex) {i : Nat} (hi : i < 8) :
    (expandGlyph g fg bg)[i]? = some (if g.getLsbD (7 - i) then fg else bg) := by
  simp [expandGlyph, hi]

/-- Equal blocks laid end to end: how many entries, and which one stands where. -/
theorem flatMap_blocks {α : Type} (f : Nat → List α) (k n : Nat) (hf : ∀ x, (f x).length = k) :
    ((List.range n).flatMap f).length = k * n ∧
      ∀ x i, x < n → i < k → ((List.range n).flatMap f)[k * x + i]? = (f x)[i]? := by
  induction n with
  | zero => exact ⟨rfl, fun _ _ h => absurd h (Nat.not_lt_zero _)⟩
  | succ n ih =>
    rw [List.range_succ, List.flatMap_append]
    simp only [List.flatMap_cons, List.flatMap_nil, List.append_nil]
    refine ⟨by rw [List.length_append, ih.1, hf, Nat.mul_succ], fun x i hx hi => ?_⟩
    by_cases hxn : x < n
    · rw [List.getElem?_append_left, ih.2 x i hxn hi]
      rw [ih.1]
      calc k * x + i < k * x + k := by omega
        _ = k * (x + 1) := (Nat.mul_succ k x).symm
        _ ≤ k * n := Nat.mul_le_mul_left k hxn
    · obtain rfl : x = n := by omega
      rw [List.getElem?_append_right (by rw [ih.1]; omega), ih.1]
      congr 1
      omega

/-- A row has eight entries a cell (R95). -/
theorem indexRow_length (s : State) (base : BitVec 16) (ra : BitVec 4) (n : Nat)
    (cur : Option (BitVec 16)) : (s.indexRow base ra n cur).length = 8 * n :=
  (flatMap_blocks _ 8 n fun _ => rfl).1

/-- Entry `8x + i` of a row is pixel `i` of cell `x` (R91). -/
theorem indexRow_entry (s : State) (base : BitVec 16) (ra : BitVec 4) (n : Nat)
    (cur : Option (BitVec 16)) {x i : Nat} (hx : x < n) (hi : i < 8) :
    (s.indexRow base ra n cur)[8 * x + i]? = (s.cellPixels base ra cur x)[i]? :=
  (flatMap_blocks _ 8 n fun _ => rfl).2 x i hx hi

end Sys2Proof.Machine
end

