-- ==== Sys2Proof/Laws/PerInstr.lean ====
section
/-! SUPPORT. The family `TableRow`: the input that spells an instruction carries the match value of its
row of spec/opcode_table.json under the row's mask. -/

namespace Sys2Proof.Laws.TableRow

/-- The input has the bits `mtch` under `mask`, read as a transaction word. -/
def TxnRow (mtch mask : TxnWord) (code : Code) : Prop := ∃ t, code = .txn t ∧ t &&& mask = mtch

/-- The input has the bits `mtch` under `mask`, read as a control byte. -/
def CtrlRow (mtch mask : Byte) (code : Code) : Prop := ∃ d, code = .ctrl d ∧ d &&& mask = mtch

/-- The instruction's row of the opcode table: match, then mask. -/
def Row : Instr → Code → Prop
  | .ctrlFullram _ => CtrlRow 0x02#8 0x02#8
  | .ctrlRomHiresw4 _ => CtrlRow 0x01#8 0x23#8
  | .ctrlRomHiresw4Hi _ => CtrlRow 0x21#8 0x23#8
  | .ctrlRomRamw4 _ => CtrlRow 0x00#8 0x23#8
  | .ctrlRomRamw4Hi _ => CtrlRow 0x20#8 0x23#8
  | .reset => TxnRow 0x0000000000000000#64 0xFFFFFFFFFFFFFFFF#64
  | .iowCtrl _ => TxnRow 0x0100000000000000#64 0xFFFFFFFFFFFFFF00#64
  | .iorStatus => TxnRow 0x0200000000000000#64 0xFFFFFFFFFFFFFFFF#64
  | .memr _ => TxnRow 0x0300000000000000#64 0xFFFFFFFFFF0000FF#64
  | .memw _ _ => TxnRow 0x0400000000000000#64 0xFFFFFFFFFF000000#64
  | .vsync _ => TxnRow 0x0500000000000000#64 0xFFFFFFFFFFFFFFFE#64
  | .de _ => TxnRow 0x0600000000000000#64 0xFFFFFFFFFFFFFFFE#64
  | .render _ _ _ _ => TxnRow 0x0700000000000000#64 0xFFE0000000000000#64
  | .palinit => TxnRow 0x0800000000000000#64 0xFFFFFFFFFFFFFFFF#64

/-- A well-formed instruction is spelled by an input of its own row. -/
def Statement (i : Instr) : Prop := i.wf = true → Row i (encode i)

/-- Equal words, bit by bit. -/
theorem eq_of_bits {x y : TxnWord} (h : ∀ i < 64, x.getLsbD i = y.getLsbD i) : x = y :=
  BitVec.eq_of_getLsbD_eq h

theorem ctrlFullram (d : Byte) : Statement (.ctrlFullram d) :=
  fun h => ⟨d, rfl, by simpa [Instr.wf, inCtrlClass] using h⟩

theorem ctrlRomHiresw4 (d : Byte) : Statement (.ctrlRomHiresw4 d) :=
  fun h => ⟨d, rfl, by simpa [Instr.wf, inCtrlClass] using h⟩

theorem ctrlRomHiresw4Hi (d : Byte) : Statement (.ctrlRomHiresw4Hi d) :=
  fun h => ⟨d, rfl, by simpa [Instr.wf, inCtrlClass] using h⟩

theorem ctrlRomRamw4 (d : Byte) : Statement (.ctrlRomRamw4 d) :=
  fun h => ⟨d, rfl, by simpa [Instr.wf, inCtrlClass] using h⟩

theorem ctrlRomRamw4Hi (d : Byte) : Statement (.ctrlRomRamw4Hi d) :=
  fun h => ⟨d, rfl, by simpa [Instr.wf, inCtrlClass] using h⟩

theorem reset : Statement .reset := fun _ => ⟨_, rfl, by decide⟩

theorem iorStatus : Statement .iorStatus := fun _ => ⟨_, rfl, by decide⟩

theorem palinit : Statement .palinit := fun _ => ⟨_, rfl, by decide⟩

theorem vsync (l : Bool) : Statement (.vsync l) := fun _ => ⟨_, rfl, by cases l <;> decide⟩

theorem de (l : Bool) : Statement (.de l) := fun _ => ⟨_, rfl, by cases l <;> decide⟩

theorem iowCtrl (d : Byte) : Statement (.iowCtrl d) := fun _ => ⟨_, rfl, by
  have hd := d.isLt
  apply eq_of_bits
  intro i hi
  rw [BitVec.getLsbD_and, getLsbD_eq_decide]
  simp only [encodeIowCtrl, toNat_append_add]
  interval_cases i <;> simp [-BitVec.getLsbD_eq_getElem] <;> omega⟩

theorem memr (a : CpuAddr) : Statement (.memr a) := fun _ => ⟨_, rfl, by
  have ha := a.isLt
  apply eq_of_bits
  intro i hi
  rw [BitVec.getLsbD_and, getLsbD_eq_decide]
  simp only [toNat_append_add]
  interval_cases i <;> simp [-BitVec.getLsbD_eq_getElem] <;> omega⟩

theorem memw (a : CpuAddr) (d : Byte) : Statement (.memw a d) := fun _ => ⟨_, rfl, by
  have ha := a.isLt
  have hd := d.isLt
  apply eq_of_bits
  intro i hi
  rw [BitVec.getLsbD_and, getLsbD_eq_decide]
  simp only [toNat_append_add]
  interval_cases i <;> simp [-BitVec.getLsbD_eq_getElem] <;> omega⟩

theorem render (base : BitVec 16) (ra : BitVec 4) (n : BitVec 16) (cur : Option (BitVec 16)) :
    Statement (.render base ra n cur) := fun _ => ⟨_, rfl, by
  have hbase := base.isLt
  have hra := ra.isLt
  have hn := n.isLt
  have hcur := (cur.getD 0#16).isLt
  have hcv : cur.isSome.toNat ≤ 1 := Bool.toNat_le _
  apply eq_of_bits
  intro i hi
  rw [BitVec.getLsbD_and, getLsbD_eq_decide]
  simp only [encodeRender, toNat_append_add]
  interval_cases i <;> simp [-BitVec.getLsbD_eq_getElem] <;> omega⟩

end Sys2Proof.Laws.TableRow
end

