-- ==== Sys2Proof/Laws/Step.lean ====
section
/-! SUPPORT. What an instruction and a step can do, said once: an instruction is turned down, or has
the effect of its rule; a step takes one input. -/

namespace Sys2Proof.Machine

/-- A memory read under a well-formed configuration (R39, R40). -/
theorem memRead_eq {s : State} (hc : s.cfg.wf = true) (a : CpuAddr) :
    s.memRead a = .next
      (s.giving (.byte (Memory.read (s.readable (s.resolveRead a).1) (s.resolveRead a).2))) :=
  if_pos (resolveRead_inside hc a)

/-- A memory write under a well-formed configuration (R39, R40). -/
theorem memWrite_eq {s : State} (hc : s.cfg.wf = true) (a : CpuAddr) (v : Byte) :
    s.memWrite a v = .next
      ((s.poke (s.resolveWrite a).1 (s.resolveWrite a).2 v).giving .nothing) :=
  if_pos (resolveWrite_inside hc a)

/-- The next state of an instruction that is carried out, and whether it needs a `RESET` before. -/
def effect : Instr → State → Bool × State
  | .ctrlFullram _, s => (false, (selectFullRam s).giving .nothing)
  | .ctrlRomHiresw4 _, s => (false, (selectRomHiresW4 s).giving .nothing)
  | .ctrlRomHiresw4Hi _, s => (false, (overrideRomHi (selectRomHiresW4 s)).giving .nothing)
  | .ctrlRomRamw4 _, s => (false, (selectRomRamW4 s).giving .nothing)
  | .ctrlRomRamw4Hi _, s => (false, (overrideRomHi (selectRomRamW4 s)).giving .nothing)
  | .reset, s => (false, s.machineReset.giving .nothing)
  | .iowCtrl d, s => (true, (applyControlByte d (s.latchStatus d)).giving .nothing)
  | .iorStatus, s => (true, s.giving (.byte (statusRead s.status s.vs)))
  | .memr a, s =>
    (true, s.giving (.byte (Memory.read (s.readable (s.resolveRead a).1) (s.resolveRead a).2)))
  | .memw a d, s => (true, (s.poke (s.resolveWrite a).1 (s.resolveWrite a).2 d).giving .nothing)
  | .vsync l, s => (true, (s.latchVs l).giving .nothing)
  | .de l, s => (true, (s.latchDe l).giving .nothing)
  | .render base ra n cur, s => (true, s.giving (s.rowResult base ra n.toNat cur))
  | .palinit, s => (false, s.giving .nothing)

/-- An instruction is carried out when the configuration is well-formed and, if it needs one, a `RESET`
has been taken. -/
theorem exec_of_ready {i : Instr} {s : State} (hc : s.cfg.wf = true)
    (hb : (effect i s).1 = true → s.booted = true) : exec i s = .next (effect i s).2 := by
  cases i
  case memr a => exact (whenBooted_of_ready _ ⟨hc, hb rfl⟩).trans (memRead_eq hc a)
  case memw a d => exact (whenBooted_of_ready _ ⟨hc, hb rfl⟩).trans (memWrite_eq hc a d)
  case render base ra n cur =>
    exact (whenBooted_of_ready _ ⟨hc, hb rfl⟩).trans (if_pos (rowInside_of_wf hc base ra n.toNat))
  all_goals first
    | exact accepted_of_wf _ hc
    | exact whenBooted_of_ready _ ⟨hc, hb rfl⟩

/-- All an instruction can do: it is carried out, or turned down for one of two reasons. -/
theorem exec_cases (i : Instr) (s : State) :
    s.cfg.wf = true ∧ ((effect i s).1 = true → s.booted = true) ∧ exec i s = .next (effect i s).2 ∨
      s.cfg.wf = true ∧ s.booted = false ∧ (effect i s).1 = true ∧
        exec i s = .next (s.turnDown .notBooted) ∨
      s.cfg.wf = false ∧ exec i s = .next (s.turnDown .cfgIllFormed) := by
  cases hc : s.cfg.wf
  · refine .inr (.inr ⟨rfl, ?_⟩)
    cases i <;> exact accepted_of_ill _ hc
  · by_cases hb : (effect i s).1 = true → s.booted = true
    · exact .inl ⟨rfl, hb, exec_of_ready hc hb⟩
    · have hn : (effect i s).1 = true ∧ s.booted = false := by
        cases he : (effect i s).1 <;> cases hs : s.booted <;> simp_all
      refine .inr (.inl ⟨rfl, hn.2, hn.1, ?_⟩)
      cases i <;> first
        | exact whenBooted_of_unbooted _ hc hn.2
        | exact absurd hn.1 (by simp [effect])

/-- All a step can do: nothing without an input; else the transaction the word spells, or its refusal. -/
theorem step_cases (s : State) :
    s.feed = [] ∧ step s = .next s ∨
      ∃ t rest, s.feed = t :: rest ∧
        ((∃ i, decodeTxn t = .ok i ∧ step s = exec i (s.awaiting rest)) ∨
          ∃ why, decodeTxn t = .error why ∧
            step s = .next ((s.awaiting rest).turnDown
              (if s.cfg.wf then rejectReason why else .cfgIllFormed))) := by
  cases hf : s.feed with
  | nil => exact .inl ⟨rfl, by simp [step, State.takeInput, hf]⟩
  | cons t rest =>
    refine .inr ⟨t, rest, rfl, ?_⟩
    cases hd : decodeTxn t with
    | ok i => exact .inl ⟨i, rfl, by simp [step, State.takeInput, hf, perform, hd]⟩
    | error why =>
      refine .inr ⟨why, rfl, ?_⟩
      simp only [step, State.takeInput, hf, perform, hd, rejectInput_eq]
      rfl

end Sys2Proof.Machine
end

