-- ==== Sys2Proof/Tests/Slice0.lean ====
section
/-! SUPPORT. The model's own tests. Expected values are those of 95_test_vectors (the vector is named)
or are written out from the encodings of 30_encoding. The last part shows, for each statement with
hypotheses, a state and operands that meet them. -/

open Sys2Proof Sys2Proof.Machine

namespace Sys2Proof.Tests

set_option maxRecDepth 20000

/-! ### Small states -/

/-- The fixture TC (95_test_vectors section 2), of whose ROM patterns only the bytes the tests read are
listed. -/
def tc : Cfg :=
  { Cfg.fixture with
    rom1Image := { bytes := 0x4000, cells := [(0x0000, 0x40#8), (0x0100, 0x41#8), (0x1FFF, 0x5F#8),
      (0x2100, 0x61#8), (0x3FFF, 0x7F#8)] }
    rom2Image := { bytes := 0x2000, cells := [(0x0000, 0x80#8), (0x0FFF, 0x8F#8), (0x1000, 0x90#8),
      (0x1FFF, 0x9F#8)] }
    charromImage := { bytes := 0x1020, cells := [(0x413, 0x66#8), (0x802, 0x3C#8), (0x1002, 0x02#8),
      (0x1007, 0x07#8), (0x1012, 0x12#8), (0x101F, 0x1F#8)] } }

/-- After a `RESET` whose draws were all 0, under TC. -/
def on : State := { State.reset with cfg := tc, status := 0x00#8, vs := false, de := false }

/-- Power-on under TC, with zeros where there is no value. -/
def off : State := State.powerOn tc [] [] [] on

/-- `on` in the full-RAM configuration. -/
def onRam : State := applyControlByte 0x02#8 on

/-- TC with `WIN_SIZE_2` = 0x1001 (vector X9). -/
def bad : State := { on with cfg := { tc with win2 := { base := 0x2000, size := 0x1001 } } }

/-- `onRam` under another configuration with TC's character ROM. -/
def onOther : State := { onRam with cfg := { tc with ctrlPort := 0x71, pixclk0 := 1 } }

/-- What an instruction returns. -/
def resultOf (i : Instr) (s : State) : Option Result :=
  match exec i s with
  | .next t => some t.result
  | .fault _ => none
  | .refused _ => none

/-- What an instruction leaves in some part of the state. -/
def after {α : Type} (part : State → α) (i : Instr) (s : State) : Option α :=
  match exec i s with
  | .next t => some (part t)
  | .fault _ => none
  | .refused _ => none

/-- The six switchable selections. -/
def six (s : State) : SelR1 × SelRom × SelRom × SelVid × SelHires × SelHires :=
  (s.selR1, s.selR2, s.selR3, s.selW2, s.selW3, s.selW4)

/-- The index row of a result. -/
def indices : Result → List Nat
  | .nothing => []
  | .byte _ => []
  | .row idx _ => idx.map Fin.val
  | .refused _ => []

/-- What a step leaves in some part of the state. -/
def stepGives {α : Type} (part : State → α) (s : State) : Option α :=
  match step s with
  | .next t => some (part t)
  | .fault _ => none
  | .refused _ => none

/-! ### Well-formedness: a term of the wrong class is refused, one for each check (R50) -/

theorem test_wf_refuses_wrong_class :
    (Instr.ctrlFullram 0x21#8).wf = false ∧
    (Instr.ctrlRomHiresw4 0x21#8).wf = false ∧
    (Instr.ctrlRomHiresw4Hi 0x01#8).wf = false ∧
    (Instr.ctrlRomRamw4 0x01#8).wf = false ∧
    (Instr.ctrlRomRamw4Hi 0x22#8).wf = false := by decide

/-! ### Decoding: one word a row, written out from R50 and R61 -/

theorem test_decode_ctrl_rows :
    decodeTableWord 8 0b00000010 = some (.ctrlFullram 0x02#8) ∧
    decodeTableWord 8 0b11011101 = some (.ctrlRomHiresw4 0xDD#8) ∧
    decodeTableWord 8 0b00100101 = some (.ctrlRomHiresw4Hi 0x25#8) ∧
    decodeTableWord 8 0b11011100 = some (.ctrlRomRamw4 0xDC#8) ∧
    decodeTableWord 8 0b11111100 = some (.ctrlRomRamw4Hi 0xFC#8) := by decide

theorem test_decode_txn_rows :
    decodeTableWord 64 0x0000000000000000 = some .reset ∧
    decodeTableWord 64 0x0100000000000022 = some (.iowCtrl 0x22#8) ∧
    decodeTableWord 64 0x0200000000000000 = some .iorStatus ∧
    decodeTableWord 64 0x0300000000010000 = some (.memr 0x0100#16) ∧
    decodeTableWord 64 0x04000000003802F0 = some (.memw 0x3802#16 0xF0#8) ∧
    decodeTableWord 64 0x0500000000000001 = some (.vsync true) ∧
    decodeTableWord 64 0x0600000000000001 = some (.de true) ∧
    decodeTableWord 64 0x0800000000000000 = some .palinit := by decide

/-- `RENDER` with and without a cursor; the `cur` field is ignored when `cv` is 0 (R61). -/
theorem test_decode_render :
    decodeTableWord 64 0x0702000000010005 = some (.render 5#16 2#4 1#16 none) ∧
    decodeTableWord 64 0x0713000100020000 = some (.render 0#16 3#4 2#16 (some 1#16)) ∧
    decodeTableWord 64 0x0702ABCD00010005 = some (.render 5#16 2#4 1#16 none) := by decide

/-- Vectors X4 to X8. -/
theorem test_decode_rejects :
    decode (.txn 0x0900000000000000#64) = .error .reservedKind ∧
    decode (.txn 0x0100000000000100#64) = .error .nonzeroMbz ∧
    decode (.txn 0x0000000000000001#64) = .error .nonzeroMbz ∧
    decode (.txn 0x0720000000010005#64) = .error .nonzeroMbz ∧
    decode (.txn 0x0300000001000000#64) = .error .nonzeroMbz := by decide

/-- No row has another width than 8 or 64 bits. -/
theorem test_decode_other_width : decodeTableWord 16 0x0002 = none := by decide

/-- Lines of the programs of 95_test_vectors section 4. -/
theorem test_assembly_lines :
    Assembly.readLine "MEMW 0x2805, 0x2B".toList = some (.memw 0x2805#16 0x2B#8) ∧
    Assembly.readLine "RENDER 5, 2, 1, 0 -> 37".toList = some (.render 5#16 2#4 1#16 (some 0#16)) ∧
    Assembly.readLine "IOW_CTRL 0x100".toList = none ∧
    Assembly.readLine "NOP".toList = none := by decide

/-! ### The configuration: TC and vectors X9, X10 -/

theorem test_tc_wf : tc.wf = true := by decide

theorem test_cfg_refused :
    bad.cfg.wf = false ∧ Cfg.wf { tc with rom1Size := 0x3FFF } = false := by decide

/-! ### Control bytes: vectors B1 to B14 -/

theorem test_ctrlFullram :
    after six (.ctrlFullram 0x22#8) on = some (.ram, .ram, .ram, .ram, .ram, .ram) := by decide

theorem test_ctrlRomHiresw4 :
    after six (.ctrlRomHiresw4 0xDD#8) onRam = some (.rom, .rom, .rom, .vid, .hires, .hires) := by
  decide

theorem test_ctrlRomHiresw4Hi :
    after six (.ctrlRomHiresw4Hi 0x21#8) onRam =
      some (.romHi, .rom, .rom, .vid, .hires, .hires) := by decide

theorem test_ctrlRomRamw4 :
    after six (.ctrlRomRamw4 0x04#8) onRam = some (.rom, .rom, .rom, .vid, .hires, .ram) := by decide

theorem test_ctrlRomRamw4Hi :
    after six (.ctrlRomRamw4Hi 0xFC#8) onRam = some (.romHi, .rom, .rom, .vid, .hires, .ram) := by
  decide

/-- Vectors B1, B2, B4, B5, B7. -/
theorem test_iowCtrl_selects :
    after six (.iowCtrl 0x00#8) on = some (.rom, .rom, .rom, .vid, .hires, .ram) ∧
    after six (.iowCtrl 0x01#8) on = some (.rom, .rom, .rom, .vid, .hires, .hires) ∧
    after six (.iowCtrl 0x03#8) on = some (.ram, .ram, .ram, .ram, .ram, .ram) ∧
    after six (.iowCtrl 0x20#8) on = some (.romHi, .rom, .rom, .vid, .hires, .ram) ∧
    after six (.iowCtrl 0x22#8) on = some (.ram, .ram, .ram, .ram, .ram, .ram) :=
  ⟨by decide, by decide, by decide, by decide, by decide⟩

/-- R77's example: `IOW_CTRL 0x0D`; and R78 after 0x04 and 0xFB. -/
theorem test_iowCtrl_latches :
    after State.status (.iowCtrl 0x0D#8) on = some 0x0D#8 ∧
    after State.clksel (.iowCtrl 0x0D#8) on = some true ∧
    after State.altColours (.iowCtrl 0x0D#8) on = some true ∧
    after State.pixelClock (.iowCtrl 0x04#8) on = some 2000000 ∧
    after State.pixelClock (.iowCtrl 0xFB#8) on = some 1000000 := by decide

/-! ### Reset -/

/-- Vectors B17 and X11: the selections of R26, and `refused` is not cleared. -/
theorem test_reset :
    after six .reset { onRam with refused := true } = some (.rom, .rom, .rom, .vid, .hires, .ram) ∧
    after State.booted .reset off = some true ∧
    after State.refused .reset { onRam with refused := true } = some true := by decide

/-! ### Memory -/

/-- Vectors M1 to M7. -/
theorem test_memr_rom :
    ([0x0000#16, 0x0100#16, 0x1FFF#16, 0x2000#16, 0x2FFF#16, 0x3000#16, 0x3FFF#16].map fun a =>
      resultOf (.memr a) on) =
    [0x40#8, 0x41#8, 0x5F#8, 0x80#8, 0x8F#8, 0x90#8, 0x9F#8].map fun r => some (.byte r) := by decide

/-- Vectors M9, M10, M11 and X1. -/
theorem test_memr_views :
    resultOf (.memr 0x0100#16) (applyControlByte 0x20#8 on) = some (.byte 0x61#8) ∧
    resultOf (.memr 0x1FFF#16) (applyControlByte 0x20#8 on) = some (.byte 0x7F#8) ∧
    resultOf (.memr 0x0100#16) { onRam with ram := [(0x0100, 0x5A#8)] } = some (.byte 0x5A#8) ∧
    resultOf (.memr 0x0000#16) off = some (.refused .notBooted) := by decide

/-- Vectors M12, M13, M14, M18. -/
theorem test_memw_buffers :
    after (fun s => (s.vram, s.ram)) (.memw 0x2000#16 0x41#8) on = some ([(0x000, 0x41#8)], []) ∧
    after State.vram (.memw 0x2FFF#16 0x07#8) on = some [(0xFFF, 0x07#8)] ∧
    after State.hires (.memw 0x3802#16 0xF0#8) on = some [(0x802, 0xF0#8)] ∧
    after (fun s => (s.vram, s.ram)) (.memw 0x2000#16 0x55#8) onRam =
      some ([], [(0x2000, 0x55#8)]) := by decide

/-- Vectors M15, M16, M17: window 4 and the fixed region. -/
theorem test_memw_window4 :
    after State.ram (.memw 0x4000#16 0x11#8) on = some [(0x4000, 0x11#8)] ∧
    after (fun s => (s.hires, s.ram)) (.memw 0x4000#16 0x22#8) (applyControlByte 0x01#8 on) =
      some ([(0x0000, 0x22#8)], []) ∧
    after State.ram (.memw 0xC000#16 0x99#8) (applyControlByte 0x01#8 on) =
      some [(0xC000, 0x99#8)] := by decide

/-! ### The status latch -/

/-- Vectors T1 to T11. -/
theorem test_iorStatus :
    (([(0x00#8, false), (0x00#8, true), (0xFF#8, false), (0xFF#8, true), (0x10#8, false),
      (0x10#8, true), (0x2F#8, false), (0xD0#8, false), (0x21#8, true), (0x0D#8, false),
      (0x09#8, true)].map fun p =>
        resultOf .iorStatus { on with status := p.1, vs := p.2 }) : List _) =
    [0xC0#8, 0xD0#8, 0xEF#8, 0xFF#8, 0xC0#8, 0xD0#8, 0xEF#8, 0xC0#8, 0xF1#8, 0xCD#8, 0xD9#8].map
      fun r => some (.byte r) := by decide

theorem test_vsync :
    after State.vs (.vsync true) on = some true ∧
    after State.vs (.vsync false) { on with vs := true } = some false := by decide

theorem test_de :
    after State.de (.de true) on = some true ∧
    after (fun s => statusRead s.status s.vs) (.de true) on = some 0xC0#8 := by decide

/-! ### Rendering -/

/-- Vectors V1, V3, V5, V8. -/
theorem test_render_text :
    (resultOf (.render 0#16 3#4 1#16 none)
      { on with vram := [(0, 0x41#8), (0x800, 0x70#8)] }).map indices =
        some [32, 7, 7, 32, 32, 7, 7, 32] ∧
    (resultOf (.render 0#16 3#4 1#16 (some 0#16))
      { on with vram := [(0, 0x41#8), (0x800, 0x70#8)] }).map indices =
        some [7, 32, 32, 7, 7, 32, 32, 7] ∧
    (resultOf (.render 0#16 2#4 1#16 none)
      { on with vram := [(0, 0x80#8), (0x800, 0x2A#8)], hires := [(0x802, 0xF0#8)] }).map indices =
        some [37, 37, 2, 2, 2, 2, 37, 37] ∧
    (resultOf (.render 2047#16 3#4 2#16 none)
      { on with vram := [(0, 0x20#8), (0x7FF, 0x41#8), (0x800, 0x0E#8), (0xFFF, 0x70#8)] }).map
        indices = some [32, 7, 7, 32, 32, 7, 7, 32, 39, 39, 39, 39, 39, 39, 39, 39] := by decide

/-- Vectors V6 with its colours, V13. -/
theorem test_render_hires :
    resultOf (.render 5#16 2#4 1#16 none)
      { on with status := 0x08#8, vram := [(5, 0x80#8), (0x805, 0x2B#8)], hires := [(0x802, 0xF0#8)] } =
      some (.row [18, 18, 18, 18, 37, 37, 37, 37]
        (List.replicate 4 { red := 73, green := 0, blue := 73 } ++
          List.replicate 4 { red := 255, green := 255, blue := 0 })) ∧
    (resultOf (.render 0#16 5#4 1#16 none)
      { on with
        status := 0x08#8, vram := [(0, 0xFF#8), (0x800, 0xFF#8)], hires := [(0xFF5, 0x81#8)] }).map
        indices = some [31, 39, 39, 39, 39, 39, 39, 31] := by decide

/-! ### The palette -/

/-- Vectors L1 to L15. -/
theorem test_palette_weigh :
    (([0x00#8, 0x01#8, 0x02#8, 0x04#8, 0x07#8, 0x08#8, 0x10#8, 0x20#8, 0x38#8, 0x40#8, 0x80#8, 0xC0#8,
      0xFF#8, 0x25#8, 0x5A#8].map fun c =>
        ((weigh c).red.toNat, (weigh c).green.toNat, (weigh c).blue.toNat)) : List _) =
    [(0, 0, 0), (38, 0, 0), (73, 0, 0), (144, 0, 0), (255, 0, 0), (0, 0, 38), (0, 0, 73), (0, 0, 144),
      (0, 0, 255), (0, 85, 0), (0, 170, 0), (0, 255, 0), (255, 255, 255), (182, 0, 144),
      (73, 85, 111)] := by decide

/-- Vectors X2 and L17: `PALINIT` before a `RESET`, and entry 31 of TC. -/
theorem test_palinit :
    exec .palinit off = .next off ∧
    palette tc 31 = { red := 255, green := 0, blue := 111 } := ⟨rfl, by decide⟩

/-! ### Steps -/

/-- P4: a refused read, as the machine's next input. -/
theorem test_step_refuses_and_goes_on :
    step (off.withFetchWord 64 0x0300000000000000) =
      .next { off with refused := true, result := .refused .notBooted } := rfl

/-- An opcode-table word runs as the first instruction after reset: a read of the blank ROM, and a control
byte, carried by its `IOW_CTRL`. -/
theorem test_step_runs_first_word :
    stepGives State.result (State.reset.withFetchWord 64 0x0300000000010000) = some (.byte 0x00#8) ∧
    stepGives State.status (State.reset.withFetchWord 8 0x02) = some 0x02#8 ∧
    stepGives six (State.reset.withFetchWord 8 0x02) =
      some (.ram, .ram, .ram, .ram, .ram, .ram) := by decide

/-- No 64-bit word runs a decode class alone, and the byte 0x21 comes to the block as B6's `IOW_CTRL`. -/
theorem test_carrier : carrier (.ctrl 0x21#8) = 0x0100000000000021#64 ∧
    carrier (.txn 0x0200000000000000#64) = 0x0200000000000000#64 := by decide

/-! ### Witnesses: for each statement with hypotheses, what meets them all

`Ready`, `BuffersFit` and the like are unfolded where a statement assumes them; each clause of a statement has
its own part, with the boundary values of its range. -/

theorem test_on_ready : on.Ready := ⟨by decide, rfl⟩

theorem test_onRam_ready : onRam.Ready := ⟨by decide, rfl⟩

theorem test_on_fits : on.BuffersFit := ⟨⟨rfl, rfl⟩, ⟨rfl, rfl⟩, ⟨rfl, rfl⟩⟩

theorem test_off_unbooted : off.cfg.wf = true ∧ off.booted = false := by decide

/-- `on` with one input to take. -/
def fed (t : TxnWord) : State := { on with feed := [t] }

theorem test_meets_StepRunsDecodedInstruction :
    ((fed 0x0300000000010000#64).feed = [0x0300000000010000#64] ∧
      decodeTxn 0x0300000000010000#64 = .ok (.memr 0x0100#16) ∧
      (Instr.memr 0x0100#16).wf = true) ∧
    on.feed = [] ∧
    ((fed (carrier (.ctrl 0x21#8))).Ready ∧
      (fed (carrier (.ctrl 0x21#8))).feed = [carrier (.ctrl 0x21#8)]) :=
  ⟨by decide, rfl, ⟨by decide, rfl⟩, rfl⟩

/-- A word of each reason, under a well-formed configuration. -/
theorem test_meets_InputsAreTheNineTransactions :
    decodeTxn 0x0300000000010000#64 = .ok (.memr 0x0100#16) ∧
    (Instr.memr 0x0100#16).isTransaction = true ∧
    ((fed 0x0900000000000000#64).feed = [0x0900000000000000#64] ∧
      ∀ i : Instr, i.isTransaction = true → decodeTxn 0x0900000000000000#64 ≠ .ok i) ∧
    ((fed 0x0100000000000100#64).feed = [0x0100000000000100#64] ∧
      ∀ i : Instr, i.isTransaction = true → decodeTxn 0x0100000000000100#64 ≠ .ok i) :=
  ⟨by decide, rfl, ⟨rfl, fun i _ h => nomatch h⟩, ⟨rfl, fun i _ h => nomatch h⟩⟩

theorem test_meets_UndecodableWordIsRefused :
    (0x09 ≤ (0x0900000000000000#64).toNat / 2 ^ 56 ∧ 0x09 ≤ (0xFF00000000000000#64).toNat / 2 ^ 56) ∧
    ((0x0000000000000001#64).toNat / 2 ^ 56 ≤ 0x08 ∧
      0x0000000000000001#64 &&& mustBeZero ((0x0000000000000001#64).toNat / 2 ^ 56) ≠ 0#64) ∧
    ((0x0880000000000000#64).toNat / 2 ^ 56 ≤ 0x08 ∧
      0x0880000000000000#64 &&& mustBeZero ((0x0880000000000000#64).toNat / 2 ^ 56) ≠ 0#64) ∧
    ((fed 0x0900000000000000#64).feed = [0x0900000000000000#64] ∧
      (fed 0x0900000000000000#64).cfg.wf = true) := by decide

theorem test_meets_DecodeOfEncode :
    (Instr.render 2047#16 15#4 65535#16 (some 0#16)).wf = true ∧
    (Instr.ctrlRomRamw4Hi 0xFC#8).wf = true := by decide

theorem test_meets_EncodeOfDecode :
    decodeTxn 0x0702ABCD00010005#64 = .ok (.render 5#16 2#4 1#16 none) ∧
    decodeTxn 0x0713000100020000#64 = .ok (.render 0#16 3#4 2#16 (some 1#16)) ∧
    decodeTxn 0x0300000000FFFF00#64 = .ok (.memr 0xFFFF#16) := by decide

theorem test_meets_DecodedInstructionIsWellFormed :
    decode (.ctrl 0xFF#8) = .ok (.ctrlFullram 0xFF#8) := by decide

theorem test_meets_AssemblyReadsBack :
    Assembly.printLine (.memw 0x2805#16 0x2B#8) = some "MEMW 0x2805, 0x2B".toList ∧
    Assembly.printLine (.render 0#16 3#4 2#16 none) = some "RENDER 0x0000, 0x3, 0x0002, none".toList := by
  decide

theorem test_meets_BareControlByteSelects : on.cfg.wf = true := test_on_ready.1

theorem test_meets_ApplyControlByteWritesSixSelections :
    (0x22#8 &&& 0x02#8 = 0x02#8 ∧ 0xDD#8 &&& 0x23#8 = 0x01#8) ∧
    (0xFD#8 &&& 0x23#8 = 0x21#8 ∧ 0xDC#8 &&& 0x23#8 = 0x00#8) ∧ 0xFC#8 &&& 0x23#8 = 0x20#8 := by decide

theorem test_meets_LastControlWriteWins :
    on.Ready ∧ (0x21#8).getLsbD 0 = (0xFD#8).getLsbD 0 ∧ (0x21#8).getLsbD 1 = (0xFD#8).getLsbD 1 ∧
      (0x21#8).getLsbD 5 = (0xFD#8).getLsbD 5 := ⟨test_on_ready, by decide⟩

theorem test_meets_ControlWriteRunsItsClass : on.Ready := test_on_ready

theorem test_meets_OnlyResetAndControlWriteSelect :
    (∃ t, exec (.iowCtrl 0x02#8) on = .next t ∧ ¬ on.SameSelections t) ∧
    (∃ t, exec .reset onRam = .next t ∧ ¬ onRam.SameSelections t) ∧
    (∃ t, step (fed 0x0100000000000002#64) = .next t ∧ ¬ (fed 0x0100000000000002#64).SameSelections t) ∧
    on.cfg.wf = true ∧ onRam.cfg.wf = true :=
  ⟨⟨_, rfl, fun h => absurd h.1 (by decide)⟩, ⟨_, rfl, fun h => absurd h.1 (by decide)⟩,
    ⟨_, rfl, fun h => absurd h.1 (by decide)⟩, by decide⟩

theorem test_meets_StatusTellsSelections :
    on.Ready ∧ (∃ t, exec (.vsync true) on = .next t) ∧ on.SelectedBy on.status :=
  ⟨test_on_ready, ⟨_, rfl⟩, rfl, rfl, rfl, rfl, rfl, rfl⟩

theorem test_meets_MemoryReadReturnsResolvedByte :
    on.Ready ∧ off.cfg.wf = true ∧ off.booted = false := ⟨test_on_ready, test_off_unbooted⟩

/-- The first and last address of each window: the ranges share none. -/
theorem test_meets_ReadWindowsFollowTheBankTable :
    on.Ready ∧
    (on.cfg.win1.base ≤ (0x0000#16).toNat ∧ (0x1FFF#16).toNat < on.cfg.win1.base + on.cfg.win1.size) ∧
    (on.cfg.win2.base ≤ (0x2000#16).toNat ∧ (0x2FFF#16).toNat < on.cfg.win2.base + on.cfg.win2.size) ∧
    (on.cfg.win3.base ≤ (0x3000#16).toNat ∧ (0x3FFF#16).toNat < on.cfg.win3.base + on.cfg.win3.size) ∧
    (on.cfg.win4.base ≤ (0x4000#16).toNat ∧ (0xBFFF#16).toNat < on.cfg.win4.base + on.cfg.win4.size) :=
  ⟨test_on_ready, by decide⟩

theorem test_meets_WriteWindowsFollowTheBankTable :
    onRam.Ready ∧
    (onRam.cfg.win1.base ≤ (0x1FFF#16).toNat ∧
      (0x1FFF#16).toNat < onRam.cfg.win1.base + onRam.cfg.win1.size) ∧
    (onRam.cfg.win2.base ≤ (0x2FFF#16).toNat ∧
      (0x2FFF#16).toNat < onRam.cfg.win2.base + onRam.cfg.win2.size) ∧
    (onRam.cfg.win3.base ≤ (0x3FFF#16).toNat ∧
      (0x3FFF#16).toNat < onRam.cfg.win3.base + onRam.cfg.win3.size) ∧
    (onRam.cfg.win4.base ≤ (0xBFFF#16).toNat ∧
      (0xBFFF#16).toNat < onRam.cfg.win4.base + onRam.cfg.win4.size) :=
  ⟨test_onRam_ready, by decide⟩

/-- The first and last address of TC's fixed region. -/
theorem test_meets_FixedRegionIsMainRam :
    on.Ready ∧ ∀ a ∈ [0xC000#16, 0xFFFF#16], ∀ k : Win, ¬ ((winRange on.cfg k).base ≤ a.toNat ∧
      a.toNat < (winRange on.cfg k).base + (winRange on.cfg k).size) :=
  ⟨test_on_ready, by intro a ha k; simp only [List.mem_cons, List.not_mem_nil, or_false] at ha
                     rcases ha with rfl | rfl <;> cases k <;> decide⟩

theorem test_meets_RamViewIsTheSameAddress :
    onRam.cfg.wf = true ∧ 0x1FFF < (winRange onRam.cfg .w1).size ∧
      (onRam.readPair .w1).1 = .ram ∧ (onRam.writePair .w1).1 = .ram := by decide

theorem test_meets_MemoryWriteChangesOneByte : on.Ready ∧ on.BuffersFit := ⟨test_on_ready, test_on_fits⟩

theorem test_meets_WriteUnderRomIsReadInFullRam :
    on.Ready ∧ on.BuffersFit ∧ on.ResetSelections ∧ on.cfg.win1.base ≤ (0x1FFF#16).toNat ∧
      (0x1FFF#16).toNat < on.cfg.win1.base + on.cfg.win1.size :=
  ⟨test_on_ready, test_on_fits, ⟨rfl, rfl, rfl, rfl, rfl, rfl, rfl, rfl⟩, by decide⟩

theorem test_meets_NextFetchSeesRamWrite :
    on.Ready ∧ on.BuffersFit ∧ (on.resolveRead 0x4000#16).1 = .ram ∧
      on.resolveWrite 0x4000#16 = (.ram, (on.resolveRead 0x4000#16).2) :=
  ⟨test_on_ready, test_on_fits, by decide⟩

theorem test_meets_CpuReadsIgnoreVideoBuffers :
    exec (.memr 0x0100#16) on = .next { on with result := .byte 0x41#8 } := rfl

theorem test_meets_WindowsAfterReset :
    off.cfg.wf = true ∧ off.cfg.win1.base ≤ (0x0000#16).toNat ∧
      (0x0000#16).toNat < off.cfg.win1.base + off.cfg.win1.size := by decide

theorem test_meets_ControlWriteStoresAndSelects :
    on.Ready ∧ off.cfg.wf = true ∧ off.booted = false := ⟨test_on_ready, test_off_unbooted⟩

theorem test_meets_StatusReadReturnsAndKeeps :
    on.Ready ∧ off.cfg.wf = true ∧ off.booted = false := ⟨test_on_ready, test_off_unbooted⟩

theorem test_meets_StatusReadBits : on.Ready := test_on_ready

theorem test_meets_VsyncLatchesTheLevel :
    on.Ready ∧ on.vs = false ∧ off.cfg.wf = true ∧ off.booted = false :=
  ⟨test_on_ready, rfl, test_off_unbooted⟩

theorem test_meets_DisplayEnableIsLatchedAndUnread :
    on.Ready ∧ (off.cfg.wf = true ∧ off.booted = false) ∧ ∃ t, exec .iorStatus on = .next t :=
  ⟨test_on_ready, test_off_unbooted, _, rfl⟩

theorem test_meets_VsyncLevelSurvivesControlWrites :
    (∃ t, exec (.iowCtrl 0x10#8) on = .next t) ∧ on.Ready := ⟨⟨_, rfl⟩, test_on_ready⟩

theorem test_meets_LatchesHaveOneWriter :
    (∃ t, exec (.iowCtrl 0x10#8) on = .next t ∧ t.status ≠ on.status) ∧
    (∃ t, exec (.de true) on = .next t ∧ t.de ≠ on.de) :=
  ⟨⟨_, rfl, by decide⟩, ⟨_, rfl, by decide⟩⟩

theorem test_meets_ClockSelectIsStatusBitTwo :
    ({ on with status := 0x04#8 } : State).clksel = true ∧ on.clksel = false ∧
    ((0x07#8).getLsbD 3 = on.status.getLsbD 3 ∧
      ∃ t, exec (.render 0#16 0#4 1#16 none) on = .next t) ∧
    off.cfg.wf = true := ⟨by decide, by decide, ⟨by decide, _, rfl⟩, by decide⟩

/-- The first and last pixel of a row of two cells. -/
theorem test_meets_RenderedRowFollowsTheSevenSteps :
    on.Ready ∧ (0 < (2#16).toNat ∧ 0 < 8) ∧ (1 < (2#16).toNat ∧ 7 < 8) := ⟨test_on_ready, by decide⟩

theorem test_meets_RenderReadsOnlyItsSources :
    on.Ready ∧ onOther.Ready ∧ on.cfg.charromImage = onOther.cfg.charromImage ∧
      on.status.getLsbD 3 = onOther.status.getLsbD 3 ∧ on.vram = onOther.vram ∧
      on.hires = onOther.hires ∧ on.cfg ≠ onOther.cfg :=
  ⟨test_on_ready, ⟨by decide, rfl⟩, by decide⟩

theorem test_meets_RenderOperandDomains :
    on.Ready ∧ (0 + 2048 < (2049#16).toNat ∧ 7 < 8) ∧ (1#16).toNat ≤ (1#16).toNat :=
  ⟨test_on_ready, by decide⟩

/-- A cursor at the second of two columns: both clauses, which exclude each other. -/
theorem test_meets_CursorInvertsItsColumn :
    on.Ready ∧ (0 < (2#16).toNat ∧ 0 < 8 ∧ 0 ≠ (1#16).toNat) ∧
      (1 < (2#16).toNat ∧ 7 < 8 ∧ 1 = (1#16).toNat) := ⟨test_on_ready, by decide⟩

theorem test_meets_PaletteInitializeChangesNothing : off.cfg.wf = true ∧ on.cfg.wf = true := by decide

theorem test_meets_ForegroundColoursAreWeighedCodes :
    (0 : PalIndex).val < 32 ∧ (31 : PalIndex).val < 32 := by decide

theorem test_meets_PaletteIsAFunctionOfTheCharacterRom :
    tc.charromImage = ({ tc with pixclk0 := 1 } : Cfg).charromImage ∧ tc ≠ { tc with pixclk0 := 1 } ∧
      ∃ t, step (fed 0x0100000000000002#64) = .next t := ⟨rfl, by decide, _, rfl⟩

theorem test_meets_ResetLeavesTheInitialState : off.cfg.wf = true ∧ onRam.cfg.wf = true := by decide

theorem test_meets_StateResetFollowsPowerOn : tc.wf = true := test_tc_wf

theorem test_meets_BeforeResetTransactionsAreRefused :
    (Instr.memr 0x0000#16).isTransaction = true ∧ Instr.memr 0x0000#16 ≠ .reset ∧
      Instr.memr 0x0000#16 ≠ .palinit ∧ off.cfg.wf = true ∧ off.booted = false := by decide

theorem test_meets_IllFormedConfigurationIsRefused :
    bad.cfg.wf = false ∧
      ({ bad with feed := [0#64] } : State).feed = [0#64] ∧
      ({ bad with feed := [0#64] } : State).cfg.wf = false := by decide

/-- Each of the four cases, and a word that is carried out. -/
theorem test_meets_RefusedInExactlyFourCases :
    (∃ t, step { bad with feed := [0#64] } = .next t ∧ t.result = .refused .cfgIllFormed) ∧
    (∃ t, step (fed 0x0900000000000000#64) = .next t ∧ t.result = .refused .reservedKind) ∧
    (∃ t, step (fed 0x0100000000000100#64) = .next t ∧ t.result = .refused .nonzeroMbz) ∧
    (∃ t, step { off with feed := [0x0200000000000000#64] } = .next t ∧
      t.result = .refused .notBooted) ∧
    (∃ t, step (fed 0x0200000000000000#64) = .next t ∧ t.result = .byte 0xC0#8) :=
  ⟨⟨_, rfl, rfl⟩, ⟨_, rfl, rfl⟩, ⟨_, rfl, rfl⟩, ⟨_, rfl, rfl⟩, ⟨_, rfl, rfl⟩⟩

theorem test_meets_BookkeepingBitsAreSticky :
    (∃ t, step { fed 0#64 with refused := true } = .next t ∧ on.booted = true) ∧
    (∃ t, exec .reset off = .next t ∧ off.booted = false ∧ t.booted = true) ∧ off.cfg.wf = true ∧
    (∃ t, exec .iorStatus off = .next t ∧ t.result = .refused .notBooted) :=
  ⟨⟨_, rfl, rfl⟩, ⟨_, rfl, rfl, rfl⟩, by decide, ⟨_, rfl, rfl⟩⟩

/-- Two states that differ in fields that have no value. -/
theorem test_meets_NoTransactionShowsUnsetFields :
    off.booted = false ∧ off.SameButUnset { off with status := 0xFF#8, selR1 := .romHi } ∧
      off ≠ { off with status := 0xFF#8, selR1 := .romHi } := ⟨rfl, rfl, by decide⟩

theorem test_meets_ReadingTransactionsChangeNoState :
    (∃ t, exec .iorStatus on = .next t) ∧ (∃ t, exec (.memr 0xFFFF#16) on = .next t) ∧
    (∃ t, exec (.render 0#16 15#4 1#16 (some 0#16)) on = .next t) ∧ ∃ t, exec .palinit on = .next t :=
  ⟨⟨_, rfl⟩, ⟨_, rfl⟩, ⟨_, rfl⟩, ⟨_, rfl⟩⟩

theorem test_meets_StepTakesOneInputAndKeepsTheConfiguration :
    ∃ t, step (fed 0x0400000000200041#64) = .next t := ⟨_, rfl⟩

theorem test_meets_StepKeepsBuffersFit :
    (fed 0x0400000000200041#64).BuffersFit ∧
      ∃ t, step (fed 0x0400000000200041#64) = .next t := ⟨test_on_fits, _, rfl⟩

end Sys2Proof.Tests
end

section
/-! SUPPORT. The inputs of the block (00_scope rule R5): a word spells one of the nine transactions, each
transaction has a word that spells it, and a word that spells none is turned down. -/

namespace Sys2Proof

/-- A word spells no decode class of a control byte (R60, R61). -/
theorem decodeTxn_isTransaction {t : TxnWord} {i : Instr} (h : decodeTxn t = .ok i) :
    i.isTransaction = true := by
  unfold decodeTxn at h
  split at h
  case h_10 => cases h
  all_goals
    obtain ⟨-, rfl⟩ := (ifZero_eq_ok _ _ _).mp h
    rfl

/-! ### The word of a transaction is read back

The kind is the word's top byte; the must-be-zero bits and the operands are then quotients of a sum. -/

/-- The word of `IOW_CTRL` as a number (R61). -/
theorem encodeIowCtrl_toNat (d : Byte) : (encodeIowCtrl d).toNat = 2 ^ 56 + d.toNat := by
  simp only [encodeIowCtrl, toNat_append_add, BitVec.toNat_ofNat]
  omega

/-- The word of `RENDER` as a number (R61). -/
theorem encodeRender_toNat (base : BitVec 16) (ra : BitVec 4) (n : BitVec 16)
    (cur : Option (BitVec 16)) :
    (encodeRender base ra n cur).toNat = 7 * 2 ^ 56 + cur.isSome.toNat * 2 ^ 52 + ra.toNat * 2 ^ 48 +
      (cur.getD 0#16).toNat * 2 ^ 32 + n.toNat * 2 ^ 16 + base.toNat := by
  simp only [encodeRender, toNat_append_add, BitVec.toNat_ofNat, BitVec.toNat_ofBool]
  omega

/-- R61, kind 0x01. -/
theorem decodeTxn_encodeIowCtrl (d : Byte) : decodeTxn (encodeIowCtrl d) = .ok (.iowCtrl d) := by
  have hd := d.isLt
  have hk : (txnKind (encodeIowCtrl d)).toNat = 1 := by
    rw [txnKind_toNat, encodeIowCtrl_toNat]
    omega
  simp only [decodeTxn, hk, ifZero_eq_ok, Instr.iowCtrl.injEq, BitVec.toNat_eq, toNat_field,
    encodeIowCtrl_toNat]
  omega

/-- R61, kind 0x03. -/
theorem decodeTxn_memrWord (a : CpuAddr) :
    decodeTxn (0x03#8 ++ 0#32 ++ a ++ 0#8) = .ok (.memr a) := by
  have ha := a.isLt
  have hk : (txnKind (0x03#8 ++ 0#32 ++ a ++ 0#8)).toNat = 3 := by
    simp only [txnKind_toNat, toNat_append_add, BitVec.toNat_ofNat]
    omega
  simp only [decodeTxn, hk, ifZero_eq_ok, Instr.memr.injEq, BitVec.toNat_eq, toNat_field,
    toNat_append_add, BitVec.toNat_ofNat]
  omega

/-- R61, kind 0x04. -/
theorem decodeTxn_memwWord (a : CpuAddr) (d : Byte) :
    decodeTxn (0x04#8 ++ 0#32 ++ a ++ d) = .ok (.memw a d) := by
  have ha := a.isLt
  have hd := d.isLt
  have hk : (txnKind (0x04#8 ++ 0#32 ++ a ++ d)).toNat = 4 := by
    simp only [txnKind_toNat, toNat_append_add, BitVec.toNat_ofNat]
    omega
  simp only [decodeTxn, hk, ifZero_eq_ok, Instr.memw.injEq, BitVec.toNat_eq, toNat_field,
    toNat_append_add, BitVec.toNat_ofNat]
  omega

/-- The bit `cv` and the column of a `RENDER` word give the cursor operand back (R61, D19). -/
theorem cursorOperand_encodeRender (base : BitVec 16) (ra : BitVec 4) (n : BitVec 16)
    (cur : Option (BitVec 16)) :
    cursorOperand ((encodeRender base ra n cur).getLsbD 52)
      ((encodeRender base ra n cur).extractLsb' 32 16) = cur := by
  have hbase := base.isLt
  have hra := ra.isLt
  have hn := n.isLt
  have hcol := (cur.getD 0#16).isLt
  have hcv := cur.isSome.toNat_lt
  have cv : (encodeRender base ra n cur).toNat / 2 ^ 52 % 2 = cur.isSome.toNat := by
    rw [encodeRender_toNat]
    omega
  have col : (encodeRender base ra n cur).extractLsb' 32 16 = cur.getD 0#16 := by
    rw [BitVec.toNat_eq, toNat_field, encodeRender_toNat]
    omega
  rw [getLsbD_eq_decide, cv, col]
  cases cur <;> rfl

/-- R61, kind 0x07. -/
theorem decodeTxn_encodeRender (base : BitVec 16) (ra : BitVec 4) (n : BitVec 16)
    (cur : Option (BitVec 16)) :
    decodeTxn (encodeRender base ra n cur) = .ok (.render base ra n cur) := by
  have hbase := base.isLt
  have hra := ra.isLt
  have hn := n.isLt
  have hcol := (cur.getD 0#16).isLt
  have hcv := cur.isSome.toNat_lt
  have hk : (txnKind (encodeRender base ra n cur)).toNat = 7 := by
    rw [txnKind_toNat, encodeRender_toNat]
    omega
  simp only [decodeTxn, hk, cursorOperand_encodeRender, ifZero_eq_ok, Instr.render.injEq,
    and_true, BitVec.toNat_eq, toNat_field, encodeRender_toNat]
  omega

/-- Every transaction is read back from the word that brings it to the block. -/
theorem decodeTxn_carrier_encode {i : Instr} (h : i.isTransaction = true) :
    decodeTxn (carrier (encode i)) = .ok i := by
  cases i with
  | reset => rfl
  | iowCtrl d => exact decodeTxn_encodeIowCtrl d
  | iorStatus => rfl
  | memr a => exact decodeTxn_memrWord a
  | memw a d => exact decodeTxn_memwWord a d
  | vsync l => cases l <;> rfl
  | de l => cases l <;> rfl
  | render base ra n cur => exact decodeTxn_encodeRender base ra n cur
  | palinit => rfl
  | _ => cases h

end Sys2Proof

namespace Sys2Proof.Machine

/-- A step on a word that spells no transaction turns the word down (R62). -/
theorem step_of_rejected {s : State} {t : TxnWord} {rest : List TxnWord} {why : Reject}
    (hf : s.feed = t :: rest) (hd : decodeTxn t = .error why) :
    step s = .next ((s.awaiting rest).turnDown
      (if s.cfg.wf then rejectReason why else .cfgIllFormed)) := by
  obtain ⟨hnil, -⟩ | ⟨t', rest', hf', hstep⟩ := step_cases s
  · simp [hf] at hnil
  · obtain ⟨rfl, rfl⟩ : t = t' ∧ rest = rest' := by simpa [hf] using hf'
    obtain ⟨i, hi, -⟩ | ⟨why', hwhy, hs⟩ := hstep
    · simp [hd] at hi
    · obtain rfl : why = why' := by simpa [hd] using hwhy
      exact hs

/-- Settles O2. A word spells a transaction or is rejected; a rejected one is turned down in its step. -/
theorem inputsAreTheNineTransactions : Obligations.InputsAreTheNineTransactions := by
  refine ⟨fun _ _ => decodeTxn_isTransaction, fun i hi => ⟨_, decodeTxn_carrier_encode hi⟩, ?_⟩
  intro s t rest hf hnone
  cases hd : decodeTxn t with
  | ok i => exact absurd hd (hnone i (decodeTxn_isTransaction hd))
  | error why =>
    refine ⟨_, step_of_rejected hf hd, ?_⟩
    cases hc : s.cfg.wf
    · exact .inl ⟨rfl, rfl⟩
    · cases why
      · exact .inr (.inl ⟨rfl, rfl⟩)
      · exact .inr (.inr ⟨rfl, rfl⟩)

end Sys2Proof.Machine
end

section
/-! SUPPORT. The selections and the bookkeeping bits (10_state): which transactions write a selection, that
the six switchable ones are those the status byte tells (R25), and that `booted` and `refused` are never
cleared (R23). -/

namespace Sys2Proof.Machine

/-! ### What an answered instruction or step did -/

/-- An instruction that gives a next state was carried out or turned down. -/
theorem exec_eq_next {i : Instr} {s t : State} (h : exec i s = .next t) :
    t = (effect i s).2 ∨ ∃ why, t = s.turnDown why := by
  obtain ⟨-, -, he⟩ | ⟨-, -, -, he⟩ | ⟨-, he⟩ := exec_cases i s <;>
    obtain rfl := Host.Outcome.next.inj (he.symm.trans h)
  · exact .inl rfl
  · exact .inr ⟨_, rfl⟩
  · exact .inr ⟨_, rfl⟩

/-- A step that gives a next state had no input, ran the transaction its word spells, or turned the word
down. -/
theorem step_eq_next {s t : State} (h : step s = .next t) :
    t = s ∨ ∃ w rest, s.feed = w :: rest ∧
      ((∃ i, decodeTxn w = .ok i ∧ exec i (s.awaiting rest) = .next t) ∨
        ∃ why, t = (s.awaiting rest).turnDown why) := by
  obtain ⟨-, hs⟩ | ⟨w, rest, hf, ⟨i, hd, hs⟩ | ⟨why, -, hs⟩⟩ := step_cases s
  · exact .inl (Host.Outcome.next.inj (h.symm.trans hs))
  · exact .inr ⟨w, rest, hf, .inl ⟨i, hd, hs.symm.trans h⟩⟩
  · exact .inr ⟨w, rest, hf, .inr ⟨_, Host.Outcome.next.inj (h.symm.trans hs)⟩⟩

/-! ### The eight selections -/

/-- Turning an input down writes no selection (R105). -/
theorem sameSelections_turnDown (s : State) (why : RefuseReason) :
    s.SameSelections (s.turnDown why) := by simp [State.SameSelections]

/-- The selections and the status byte are outside what the seven other transactions write (R17, R10). -/
theorem effect_keeps_selections {i : Instr} {s : State} (hi : i.isTransaction = true)
    (hr : i ≠ .reset) (hw : ∀ d, i ≠ .iowCtrl d) :
    s.SameSelections (effect i s).2 ∧ (effect i s).2.status = s.status := by
  cases i with
  | reset => exact absurd rfl hr
  | iowCtrl d => exact absurd rfl (hw d)
  | iorStatus | memr | memw | vsync | de | render | palinit => simp [effect, State.SameSelections]
  | _ => cases hi

/-- A transaction that changes a selection is `RESET` or `IOW_CTRL` (R17). -/
theorem reset_or_iowCtrl_of_not_sameSelections {i : Instr} {s t : State}
    (hi : i.isTransaction = true) (h : exec i s = .next t) (hne : ¬ s.SameSelections t) :
    i = .reset ∨ ∃ d, i = .iowCtrl d := by
  obtain rfl | ⟨why, rfl⟩ := exec_eq_next h
  · by_contra hother
    obtain ⟨hr, hw⟩ := not_or.mp hother
    exact hne (effect_keeps_selections hi hr (not_exists.mp hw)).1
  · exact absurd (sameSelections_turnDown s why) hne

/-- A step that changes a selection took a `RESET` or an `IOW_CTRL`. -/
theorem step_reset_or_iowCtrl_of_not_sameSelections {s t : State} (h : step s = .next t)
    (hne : ¬ s.SameSelections t) :
    ∃ w rest, s.feed = w :: rest ∧
      (decodeTxn w = .ok .reset ∨ ∃ d, decodeTxn w = .ok (.iowCtrl d)) := by
  obtain rfl | ⟨w, rest, hf, ⟨i, hd, he⟩ | ⟨why, rfl⟩⟩ := step_eq_next h
  · exact absurd (by simp [State.SameSelections]) hne
  · refine ⟨w, rest, hf, ?_⟩
    obtain rfl | ⟨d, rfl⟩ := reset_or_iowCtrl_of_not_sameSelections (decodeTxn_isTransaction hd) he hne
    · exact .inl hd
    · exact .inr ⟨d, hd⟩
  · exact absurd (sameSelections_turnDown _ why) hne

/-- `RESET` under a well-formed configuration (R109). -/
theorem exec_reset_of_wf {s : State} (hc : s.cfg.wf = true) :
    exec .reset s = .next (s.machineReset.giving .nothing) := accepted_of_wf _ hc

/-- Settles O15. A transaction that changes a selection was carried out, and seven of the nine carried out
change none; a step changes only what its transaction does; and `RESET` writes constants. -/
theorem onlyResetAndControlWriteSelect : Obligations.OnlyResetAndControlWriteSelect :=
  ⟨fun _ _ _ => reset_or_iowCtrl_of_not_sameSelections,
    fun _ _ => step_reset_or_iowCtrl_of_not_sameSelections, fun _ _ hc hc' =>
    ⟨_, _, exec_reset_of_wf hc, exec_reset_of_wf hc', by simp [State.SameSelections]⟩⟩

/-! ### The status byte tells the six switchable selections -/

/-- A control byte leaves the six selections that its bits tell (R65). -/
theorem applyControlByte_selectedBy (d : Byte) (s : State) :
    (applyControlByte d s).SelectedBy d := by
  simp [applyControlByte_eq, State.SelectedBy]

/-- `IOW_CTRL d`, carried out, stores `d` and leaves the selections `d` tells (R77). -/
theorem effect_iowCtrl_selects (d : Byte) (s : State) :
    (effect (.iowCtrl d) s).2.status = d ∧ (effect (.iowCtrl d) s).2.SelectedBy d :=
  ⟨by simp [effect, applyControlByte_eq], applyControlByte_selectedBy d (s.latchStatus d)⟩

/-- What a byte tells of one state it tells of any with the same selections. -/
theorem selectedBy_congr {s t : State} {d : Byte} (hsame : s.SameSelections t)
    (h : s.SelectedBy d) : t.SelectedBy d := by
  obtain ⟨r1, r2, r3, -, -, w2, w3, w4⟩ := hsame
  simpa [State.SelectedBy, r1, r2, r3, w2, w3, w4] using h

/-- Every transaction but `RESET`, carried out, keeps the selections those the status byte tells. -/
theorem effect_keeps_selectedBy {i : Instr} {s : State} (hi : i.isTransaction = true)
    (hr : i ≠ .reset) (h : s.SelectedBy s.status) :
    (effect i s).2.SelectedBy (effect i s).2.status := by
  by_cases hw : ∃ d, i = .iowCtrl d
  · obtain ⟨d, rfl⟩ := hw
    obtain ⟨hstatus, hsel⟩ := effect_iowCtrl_selects d s
    rwa [hstatus]
  · obtain ⟨hsame, hstatus⟩ := effect_keeps_selections (s := s) hi hr (not_exists.mp hw)
    rw [hstatus]
    exact selectedBy_congr hsame h

/-- Settles O16. `IOW_CTRL` writes the status byte and the selections from the same byte; the other seven
write neither, and a refusal writes neither. -/
theorem statusTellsSelections : Obligations.StatusTellsSelections := by
  refine ⟨fun s d hready => ?_, fun i s t hi hr hexec h => ?_⟩
  · exact ⟨_, exec_of_ready hready.1 fun _ => hready.2, effect_iowCtrl_selects d s⟩
  · obtain rfl | ⟨why, rfl⟩ := exec_eq_next hexec
    · exact effect_keeps_selectedBy hi hr h
    · exact selectedBy_congr (sameSelections_turnDown s why) h

/-! ### The bookkeeping bits -/

/-- An instruction that is carried out does not write `refused` (R23). -/
@[simp] theorem effect_refused (i : Instr) (s : State) : (effect i s).2.refused = s.refused := by
  cases i <;> simp [effect, applyControlByte_eq, selectFullRam, selectRomHiresW4, selectRomRamW4]

/-- Of the instructions that are carried out only `RESET` writes `booted` (R23). -/
theorem effect_booted {i : Instr} (s : State) (hr : i ≠ .reset) :
    (effect i s).2.booted = s.booted := by
  cases i with
  | reset => exact absurd rfl hr
  | _ => simp [effect, applyControlByte_eq, selectFullRam, selectRomHiresW4, selectRomRamW4]

/-- An instruction that is carried out does not return a refusal (R105). -/
theorem effect_result_ne_refused (i : Instr) (s : State) (why : RefuseReason) :
    (effect i s).2.result ≠ .refused why := by
  cases i <;> simp [effect, State.rowResult]

/-- An answered instruction clears neither bit. -/
theorem exec_keeps_bookkeeping {i : Instr} {s t : State} (h : exec i s = .next t) :
    (s.refused = true → t.refused = true) ∧ (s.booted = true → t.booted = true) := by
  obtain rfl | ⟨why, rfl⟩ := exec_eq_next h
  · refine ⟨by simp, fun hb => ?_⟩
    by_cases hr : i = .reset
    · subst hr; rfl
    · exact (effect_booted s hr).trans hb
  · simp

/-- A step clears neither bit. -/
theorem step_keeps_bookkeeping {s t : State} (h : step s = .next t) :
    (s.refused = true → t.refused = true) ∧ (s.booted = true → t.booted = true) := by
  obtain rfl | ⟨w, rest, -, ⟨i, -, he⟩ | ⟨why, rfl⟩⟩ := step_eq_next h
  · exact ⟨id, id⟩
  · simpa using exec_keeps_bookkeeping he
  · simp

/-- An instruction that sets `booted` is `RESET`. -/
theorem eq_reset_of_sets_booted {i : Instr} {s t : State} (h : exec i s = .next t)
    (hs : s.booted = false) (ht : t.booted = true) : i = .reset := by
  by_contra hr
  have hkept : t.booted = s.booted := by
    obtain rfl | ⟨why, rfl⟩ := exec_eq_next h
    · exact effect_booted s hr
    · simp
  simp [hkept, hs] at ht

/-- An instruction that returns a refusal leaves `refused` set. -/
theorem refused_of_result {i : Instr} {s t : State} {why : RefuseReason} (h : exec i s = .next t)
    (hres : t.result = .refused why) : t.refused = true := by
  obtain rfl | ⟨_, rfl⟩ := exec_eq_next h
  · exact absurd hres (effect_result_ne_refused i s why)
  · simp

/-- Settles O49. An instruction that is carried out writes `refused` never and `booted` only as `RESET`; one
that is turned down sets `refused` and keeps `booted`. -/
theorem bookkeepingBitsAreSticky : Obligations.BookkeepingBitsAreSticky :=
  ⟨fun _ _ _ _ _ => ⟨rfl, rfl⟩, fun _ _ => step_keeps_bookkeeping,
    fun _ _ _ => eq_reset_of_sets_booted,
    fun _ hc => ⟨_, exec_reset_of_wf hc, rfl⟩,
    fun _ _ _ _ => refused_of_result⟩

end Sys2Proof.Machine
end

section
/-! SUPPORT. Memory (20_memory): what the check of a configuration asks for (R40), what happens under a
configuration that fails it, what a step takes and keeps (R44, R33), and where an address of a window, or
of the fixed region, resolves to in each direction (R32 to R37). -/

namespace Sys2Proof.Machine

/-! ### What a step takes and keeps -/

/-- An instruction that is carried out takes no input (R44). -/
@[simp] theorem effect_feed (i : Instr) (s : State) : (effect i s).2.feed = s.feed := by
  cases i <;> simp [effect, applyControlByte_eq, selectFullRam, selectRomHiresW4, selectRomRamW4]

/-- An instruction that is carried out does not write the configuration (R3). -/
@[simp] theorem effect_cfg (i : Instr) (s : State) : (effect i s).2.cfg = s.cfg := by
  cases i <;> simp [effect, applyControlByte_eq, selectFullRam, selectRomHiresW4, selectRomRamW4]

/-- An answered instruction leaves the inputs still to come and the configuration as they were. -/
theorem exec_keeps_feed_cfg {i : Instr} {s t : State} (h : exec i s = .next t) :
    t.feed = s.feed ∧ t.cfg = s.cfg := by
  obtain rfl | ⟨why, rfl⟩ := exec_eq_next h <;> simp

/-- Settles O52. The step itself takes the word; what runs after that, an instruction or a refusal, writes
neither the inputs nor the configuration. -/
theorem stepTakesOneInputAndKeepsTheConfiguration :
    Obligations.StepTakesOneInputAndKeepsTheConfiguration := by
  intro s t h
  obtain ⟨hf, hs⟩ | ⟨w, rest, hf, ⟨i, -, hs⟩ | ⟨why, -, hs⟩⟩ := step_cases s
  · obtain rfl := Host.Outcome.next.inj (hs.symm.trans h)
    simp [hf]
  · simpa [hf] using exec_keeps_feed_cfg (hs.symm.trans h)
  · obtain rfl := Host.Outcome.next.inj (hs.symm.trans h)
    simp [hf]

/-! ### Under an ill-formed configuration -/

/-- An instruction under an ill-formed configuration is turned down for that reason (R40). -/
theorem exec_of_ill {s : State} (i : Instr) (hc : s.cfg.wf = false) :
    exec i s = .next (s.turnDown .cfgIllFormed) := by
  obtain ⟨hwf, -⟩ | ⟨hwf, -⟩ | ⟨-, he⟩ := exec_cases i s
  · simp [hc] at hwf
  · simp [hc] at hwf
  · exact he

/-- A step on a word that spells a transaction runs it on the state that has taken the word (R44). -/
theorem step_of_decoded {s : State} {t : TxnWord} {rest : List TxnWord} {i : Instr}
    (hf : s.feed = t :: rest) (hd : decodeTxn t = .ok i) : step s = exec i (s.awaiting rest) := by
  simp [step, State.takeInput, hf, perform, hd]

/-- Settles O47. Every instruction checks the configuration first, and so does the refusal of a word that
spells none. -/
theorem illFormedConfigurationIsRefused : Obligations.IllFormedConfigurationIsRefused := by
  refine ⟨fun i _ => exec_of_ill i, fun s t rest hf hc => ?_⟩
  cases hd : decodeTxn t with
  | ok i => exact (step_of_decoded hf hd).trans (exec_of_ill i hc)
  | error why => simp [step_of_rejected hf hd, hc, State.turnDown, State.awaiting]

/-! ### The check of a configuration -/

/-- What is true of every window. -/
theorem forall_win {p : Win → Prop} : (∀ k, p k) ↔ p .w1 ∧ p .w2 ∧ p .w3 ∧ p .w4 :=
  ⟨fun h => ⟨h _, h _, h _, h _⟩, fun ⟨h1, h2, h3, h4⟩ k => by cases k <;> assumption⟩

/-- R40 item 1 for one window. -/
theorem Window_inSpace {w : Window} :
    w.inSpace = true ↔ 1 ≤ w.size ∧ w.base + w.size ≤ 0x10000 := by
  simp only [Window.inSpace, Bool.and_eq_true, decide_eq_true_eq]
  rfl

/-- Two windows of at least one byte with no address in both lie apart: the higher of the two bases would
be in both. -/
theorem Window_apart_of_disjoint {v w : Window} (hv : 1 ≤ v.size) (hw : 1 ≤ w.size)
    (h : ∀ a, v.covers a = true → w.covers a = true → False) : v.apart w = true := by
  simp only [Window.apart, Bool.or_eq_true, decide_eq_true_eq, Window_covers] at h ⊢
  by_contra hmeet
  exact h (max v.base w.base) (by omega) (by omega)

/-- R40 item 8 for one image (log 16). -/
theorem Image_fits {n : Nat} {im : Image} :
    im.fits n = true ↔ im.bytes = n ∧ Memory.Fits n im.cells := by
  simp [Image.fits, Memory.Fits, and_assoc]

/-- Under a well-formed configuration no address is in two windows (R40 item 2): each would be the one
found. -/
theorem win_unique {c : Cfg} {j k : Win} {a : Nat} (hc : c.wf = true)
    (hj : (winRange c j).covers a = true) (hk : (winRange c k).covers a = true) : j = k :=
  Option.some.inj ((windowOf_of_covers hc j hj).symm.trans (windowOf_of_covers hc k hk))

/-- Settles O27. Items 1 and 2 are about the four windows and their six pairs; the other items stand in the
check as they stand in the list. -/
theorem configurationCheckSaysTheNineItems : Obligations.ConfigurationCheckSaysTheNineItems := by
  intro c
  simp only [and_assoc]
  refine ⟨fun hc => ?_, fun ⟨hspace, hdisjoint, rest⟩ => ?_⟩
  · have hdisjoint (j k : Win) (a : Nat) := win_unique (j := j) (k := k) (a := a) hc
    simp only [Cfg.wf, Bool.and_eq_true, decide_eq_true_eq, Window_inSpace, Image_fits,
      and_assoc] at hc
    obtain ⟨h1, h1', h2, h2', h3, h3', h4, h4', -, -, -, -, -, -, rest⟩ := hc
    exact ⟨forall_win.mpr ⟨⟨h1, h1'⟩, ⟨h2, h2'⟩, ⟨h3, h3'⟩, h4, h4'⟩, hdisjoint, rest⟩
  · have apart {j k : Win} (hne : j ≠ k) : (winRange c j).apart (winRange c k) = true :=
      Window_apart_of_disjoint (hspace j).1 (hspace k).1 fun a hj hk =>
        hne (hdisjoint j k a hj hk)
    obtain ⟨h1, h2, h3, h4⟩ := forall_win.mp hspace
    have h12 := apart (j := .w1) (k := .w2) nofun
    have h13 := apart (j := .w1) (k := .w3) nofun
    have h14 := apart (j := .w1) (k := .w4) nofun
    have h23 := apart (j := .w2) (k := .w3) nofun
    have h24 := apart (j := .w2) (k := .w4) nofun
    have h34 := apart (j := .w3) (k := .w4) nofun
    simp only [Cfg.wf, Bool.and_eq_true, decide_eq_true_eq, Window_inSpace, Image_fits, and_assoc]
    exact ⟨h1.1, h1.2, h2.1, h2.2, h3.1, h3.2, h4.1, h4.2, h12, h13, h14, h23, h24, h34, rest⟩

/-! ### Where an address resolves to -/

/-- A ROM bank is not the RAM. -/
@[simp] theorem romBuffer_ne_ram (b : RomBank) : romBuffer b ≠ .ram := by cases b <;> nofun

/-- The RAM view of a read window has the window's own base as its base offset (R36). -/
theorem readPair_of_ram {s : State} {k : Win} (hv : (s.readPair k).1 = .ram) :
    s.readPair k = (.ram, (winRange s.cfg k).base) := by
  cases k
  · cases h : s.selR1 <;> simp_all [State.readPair, winRange]
  · cases h : s.selR2 <;> simp_all [State.readPair, romEntry, winRange]
  · cases h : s.selR3 <;> simp_all [State.readPair, romEntry, winRange]
  · rfl

/-- The RAM view of a write window has the window's own base as its base offset (R36). -/
theorem writePair_of_ram {s : State} {k : Win} (hv : (s.writePair k).1 = .ram) :
    s.writePair k = (.ram, (winRange s.cfg k).base) := by
  cases k
  · rfl
  · cases h : s.selW2 <;> simp_all [State.writePair, winRange]
  · cases h : s.selW3 <;> simp_all [State.writePair, hiresEntry, winRange]
  · cases h : s.selW4 <;> simp_all [State.writePair, hiresEntry, winRange]

/-- A read in window `k` resolves to the window's buffer at base offset plus window offset (R37). -/
theorem resolveRead_of_covers {s : State} {a : CpuAddr} {k : Win} {b : ReadBuffer} {off i : Nat}
    (hc : s.cfg.wf = true) (hk : (winRange s.cfg k).covers a.toNat = true)
    (hp : s.readPair k = (b, off)) (hi : off + (a.toNat - (winRange s.cfg k).base) = i) :
    s.resolveRead a = (b, i) := by
  simp [State.resolveRead, windowOf_of_covers hc k hk, hp, hi]

/-- A write in window `k` resolves to the window's buffer at base offset plus window offset (R37). -/
theorem resolveWrite_of_covers {s : State} {a : CpuAddr} {k : Win} {b : WriteBuffer} {off i : Nat}
    (hc : s.cfg.wf = true) (hk : (winRange s.cfg k).covers a.toNat = true)
    (hp : s.writePair k = (b, off)) (hi : off + (a.toNat - (winRange s.cfg k).base) = i) :
    s.resolveWrite a = (b, i) := by
  simp [State.resolveWrite, windowOf_of_covers hc k hk, hp, hi]

/-- A read through a RAM view resolves to the RAM at the CPU address (R36). -/
theorem resolveRead_of_ram {s : State} {a : CpuAddr} {k : Win} (hc : s.cfg.wf = true)
    (hk : (winRange s.cfg k).covers a.toNat = true) (hv : (s.readPair k).1 = .ram) :
    s.resolveRead a = (.ram, a.toNat) :=
  resolveRead_of_covers hc hk (readPair_of_ram hv) (Nat.add_sub_of_le (Window_covers.mp hk).1)

/-- A write through a RAM view resolves to the RAM at the CPU address (R36). -/
theorem resolveWrite_of_ram {s : State} {a : CpuAddr} {k : Win} (hc : s.cfg.wf = true)
    (hk : (winRange s.cfg k).covers a.toNat = true) (hv : (s.writePair k).1 = .ram) :
    s.resolveWrite a = (.ram, a.toNat) :=
  resolveWrite_of_covers hc hk (writePair_of_ram hv) (Nat.add_sub_of_le (Window_covers.mp hk).1)

/-- Settles O21. The address of an offset in a window does not wrap, since the window ends in the CPU's
space, and so lies in the window. -/
theorem ramViewIsTheSameAddress : Obligations.RamViewIsTheSameAddress := by
  intro s k o hc ho
  have hend : (winRange s.cfg k).base + (winRange s.cfg k).size ≤ 0x10000 :=
    ((configurationCheckSaysTheNineItems s.cfg).mp hc).1 k |>.2
  have ha : (BitVec.ofNat 16 ((winRange s.cfg k).base + o)).toNat = (winRange s.cfg k).base + o :=
    Nat.mod_eq_of_lt (by omega)
  have hk : (winRange s.cfg k).covers
      (BitVec.ofNat 16 ((winRange s.cfg k).base + o)).toNat = true :=
    Window_covers.mpr (by omega)
  exact ⟨fun hv => by rw [resolveRead_of_ram hc hk hv, ha],
    fun hv => by rw [resolveWrite_of_ram hc hk hv, ha]⟩

/-! ### The two memory transactions -/

/-- `MEMR` of a ready block returns the byte its address resolves to (R73). -/
theorem exec_memr_of_resolveRead {s : State} {a : CpuAddr} {b : ReadBuffer} {i : Nat}
    (hs : s.Ready) (hr : s.resolveRead a = (b, i)) :
    exec (.memr a) s = .next (s.giving (.byte (Memory.read (s.readable b) i))) := by
  simpa [effect, hr] using exec_of_ready (i := .memr a) hs.1 fun _ => hs.2

/-- `MEMW` of a ready block writes the byte its address resolves to (R74). -/
theorem exec_memw_of_resolveWrite {s : State} {a : CpuAddr} {b : WriteBuffer} {i : Nat} (d : Byte)
    (hs : s.Ready) (hr : s.resolveWrite a = (b, i)) :
    exec (.memw a d) s = .next ((s.poke b i d).giving .nothing) := by
  simpa [effect, hr] using exec_of_ready (i := .memw a d) hs.1 fun _ => hs.2

/-- Settles O20. No window is found for the address, so it resolves to the RAM in both directions. -/
theorem fixedRegionIsMainRam : Obligations.FixedRegionIsMainRam := by
  intro s a d hs hfixed
  have hnone : windowOf s.cfg a.toNat = none := windowOf_eq_none.mpr fun k => by
    simpa [← Window_covers] using hfixed k
  have hread : s.resolveRead a = (.ram, a.toNat) := by simp [State.resolveRead, hnone]
  have hwrite : s.resolveWrite a = (.ram, a.toNat) := by simp [State.resolveWrite, hnone]
  exact ⟨exec_memr_of_resolveRead hs hread, exec_memw_of_resolveWrite d hs hwrite⟩

/-- `MEMR` in a window returns the byte of the view's buffer at base offset plus window offset (R34). -/
theorem exec_memr_of_covers {s : State} {a : CpuAddr} {k : Win} {b : ReadBuffer} {off i : Nat}
    (hs : s.Ready) (hk : (winRange s.cfg k).covers a.toNat = true) (hp : s.readPair k = (b, off))
    (hi : off + (a.toNat - (winRange s.cfg k).base) = i) :
    exec (.memr a) s = .next (s.giving (.byte (Memory.read (s.readable b) i))) :=
  exec_memr_of_resolveRead hs (resolveRead_of_covers hs.1 hk hp hi)

/-- `MEMR` through a RAM view (R36). -/
theorem exec_memr_of_ram {s : State} {a : CpuAddr} {k : Win} (hs : s.Ready)
    (hk : (winRange s.cfg k).covers a.toNat = true) (hv : (s.readPair k).1 = .ram) :
    exec (.memr a) s = .next (s.giving (.byte (Memory.read s.ram a.toNat))) :=
  exec_memr_of_resolveRead hs (resolveRead_of_ram hs.1 hk hv)

/-- `MEMW` in a window writes the byte of the view's buffer at base offset plus window offset (R35). -/
theorem exec_memw_of_covers {s : State} {a : CpuAddr} {k : Win} {b : WriteBuffer} {off i : Nat}
    (d : Byte) (hs : s.Ready) (hk : (winRange s.cfg k).covers a.toNat = true)
    (hp : s.writePair k = (b, off)) (hi : off + (a.toNat - (winRange s.cfg k).base) = i) :
    exec (.memw a d) s = .next ((s.poke b i d).giving .nothing) :=
  exec_memw_of_resolveWrite d hs (resolveWrite_of_covers hs.1 hk hp hi)

/-- `MEMW` through a RAM view (R36). -/
theorem exec_memw_of_ram {s : State} {a : CpuAddr} {k : Win} (d : Byte) (hs : s.Ready)
    (hk : (winRange s.cfg k).covers a.toNat = true) (hv : (s.writePair k).1 = .ram) :
    exec (.memw a d) s = .next ((s.poke .ram a.toNat d).giving .nothing) :=
  exec_memw_of_resolveWrite d hs (resolveWrite_of_ram hs.1 hk hv)

/-- `MEMR` in a window whose read list is a ROM view or the RAM (R34: windows 2 and 3). -/
theorem exec_memr_of_romEntry {s : State} {a : CpuAddr} (k : Win) {v : RomView} {sel : SelRom}
    (hs : s.Ready) (hk : (winRange s.cfg k).covers a.toNat = true) :
    s.readPair k = romEntry (winRange s.cfg k) v sel →
      exec (.memr a) s = .next (s.giving (.byte (
        match sel, v.bank with
        | .ram, _ => Memory.read s.ram a.toNat
        | .rom, .rom1 => Memory.read s.cfg.rom1Image.cells
            (v.off + (a.toNat - (winRange s.cfg k).base))
        | .rom, .rom2 => Memory.read s.cfg.rom2Image.cells
            (v.off + (a.toNat - (winRange s.cfg k).base))))) := by
  intro hp
  cases sel with
  | ram => exact exec_memr_of_ram hs hk (by simp [hp, romEntry])
  | rom =>
    cases hbank : v.bank
    · have hview : s.readPair k = (.rom1, v.off) := by simp [hp, romEntry, romBuffer, hbank]
      exact exec_memr_of_covers hs hk hview rfl
    · have hview : s.readPair k = (.rom2, v.off) := by simp [hp, romEntry, romBuffer, hbank]
      exact exec_memr_of_covers hs hk hview rfl

/-- Settles O18. In each window and for each view of its list the pair of the Bank Table says where the
address resolves to. -/
theorem readWindowsFollowTheBankTable : Obligations.ReadWindowsFollowTheBankTable := by
  intro s a hs
  refine ⟨fun hlo hhi => ?_, fun hlo hhi => ?_, fun hlo hhi => ?_, fun hlo hhi => ?_⟩
  · have hk : (winRange s.cfg .w1).covers a.toNat = true := Window_covers.mpr ⟨hlo, hhi⟩
    split
    next hsel => exact exec_memr_of_ram hs hk (by simp [State.readPair, hsel])
    next hsel =>
      have hp : s.readPair .w1 = (.rom1, 0x0000) := by simp [State.readPair, hsel]
      exact exec_memr_of_covers hs hk hp (Nat.zero_add _)
    next hsel =>
      have hp : s.readPair .w1 = (.rom1, 0x2000) := by simp [State.readPair, hsel]
      exact exec_memr_of_covers hs hk hp rfl
  · exact exec_memr_of_romEntry .w2 hs (Window_covers.mpr ⟨hlo, hhi⟩) rfl
  · exact exec_memr_of_romEntry .w3 hs (Window_covers.mpr ⟨hlo, hhi⟩) rfl
  · have hk : (winRange s.cfg .w4).covers a.toNat = true := Window_covers.mpr ⟨hlo, hhi⟩
    exact exec_memr_of_ram hs hk rfl

/-- Settles O19. As for a read; what an address resolves to is the one byte `MEMW` pokes. -/
theorem writeWindowsFollowTheBankTable : Obligations.WriteWindowsFollowTheBankTable := by
  intro s a d hs
  refine ⟨fun hlo hhi => ?_, fun hlo hhi => ?_, fun hlo hhi => ?_, fun hlo hhi => ?_⟩
  · have hk : (winRange s.cfg .w1).covers a.toNat = true := Window_covers.mpr ⟨hlo, hhi⟩
    exact exec_memw_of_ram d hs hk rfl
  · have hk : (winRange s.cfg .w2).covers a.toNat = true := Window_covers.mpr ⟨hlo, hhi⟩
    split
    next hsel => exact exec_memw_of_ram d hs hk (by simp [State.writePair, hsel])
    next hsel =>
      have hp : s.writePair .w2 = (.vram, 0x0000) := by simp [State.writePair, hsel]
      exact exec_memw_of_covers d hs hk hp (Nat.zero_add _)
  · have hk : (winRange s.cfg .w3).covers a.toNat = true := Window_covers.mpr ⟨hlo, hhi⟩
    split
    next hsel => exact exec_memw_of_ram d hs hk (by simp [State.writePair, hiresEntry, hsel])
    next hsel =>
      have hp : s.writePair .w3 = (.hires, 0x0000) := by simp [State.writePair, hiresEntry, hsel]
      exact exec_memw_of_covers d hs hk hp (Nat.zero_add _)
  · have hk : (winRange s.cfg .w4).covers a.toNat = true := Window_covers.mpr ⟨hlo, hhi⟩
    split
    next hsel => exact exec_memw_of_ram d hs hk (by simp [State.writePair, hiresEntry, hsel])
    next hsel =>
      have hp : s.writePair .w4 = (.hires, s.cfg.hiresW4Off) := by
        simp [State.writePair, hiresEntry, hsel]
      exact exec_memw_of_covers d hs hk hp rfl

end Sys2Proof.Machine
end

section
/-! SUPPORT. The encodings (30_encoding): the five classes of a control byte by its masked number (R50), a
transaction word by its kind, its must-be-zero bits and its fields (R60 to R62), the status read byte bit by
bit (R52), and the line of a transaction (R63). -/

namespace Sys2Proof

/-! ### Control bytes -/

/-- The bits 5, 1 and 0 of a byte as a number (R50). -/
theorem land_classBits (d m : Byte) :
    d &&& 0x23#8 = m ↔ d.toNat / 2 ^ 5 % 2 * 2 ^ 5 + d.toNat % 2 ^ 2 = m.toNat := by
  have hruns : d.toNat &&& 0x23 = d.toNat / 2 ^ 5 % 2 * 2 ^ 5 + d.toNat % 2 ^ 2 :=
    land_two_runs d.toNat 5 1 2 (by decide)
  rw [land_eq_iff, ← hruns]
  rfl

/-- Bit 1 of a byte as a number (R50). -/
theorem land_fullramBit (d : Byte) : d &&& 0x02#8 = 0x02#8 ↔ d.toNat / 2 % 2 = 1 := by
  have hrun : d.toNat &&& 2 = d.toNat / 2 % 2 * 2 := land_run d.toNat 1 1
  simp only [land_eq_iff, BitVec.toNat_ofNat, hrun]
  omega

/-- A control byte decodes to the class whose match it has under the class's mask (R50). -/
theorem decodeCtrl_eq_iff (d : Byte) :
    (decodeCtrl d = .ctrlFullram d ↔ d &&& 0x02#8 = 0x02#8) ∧
    (decodeCtrl d = .ctrlRomHiresw4 d ↔ d &&& 0x23#8 = 0x01#8) ∧
    (decodeCtrl d = .ctrlRomHiresw4Hi d ↔ d &&& 0x23#8 = 0x21#8) ∧
    (decodeCtrl d = .ctrlRomRamw4 d ↔ d &&& 0x23#8 = 0x00#8) ∧
    (decodeCtrl d = .ctrlRomRamw4Hi d ↔ d &&& 0x23#8 = 0x20#8) := by
  simp only [land_fullramBit, land_classBits, decodeCtrl, getLsbD_eq_decide, decide_eq_true_eq,
    BitVec.toNat_ofNat]
  split
  · simp; omega
  · split <;> split <;> simp <;> omega

/-- Settles O8. A class is told by bits 1, 0 and 5 alone, and each mask selects among just these. -/
theorem controlByteHasOneOfFiveClasses : Obligations.ControlByteHasOneOfFiveClasses := by
  refine ⟨fun d => ?_, rfl, ?_⟩
  · obtain ⟨fullram, hiresw4, hiresw4Hi, ramw4, ramw4Hi⟩ := decodeCtrl_eq_iff d
    exact ⟨fullram, hiresw4, hiresw4Hi, ramw4, ramw4Hi, decodeCtrl_operand d⟩
  · simp only [List.forall_mem_cons]
    exact ⟨rfl, rfl, rfl, rfl, nofun⟩

/-! ### Transaction words -/

/-- The check of one must-be-zero field, by its mask. -/
theorem ifZero_field (t m : TxnWord) (lo k : Nat) (i : Instr) (hm : m.toNat = (2 ^ k - 1) <<< lo) :
    ifZero (t.extractLsb' lo k) i = if t &&& m = 0#64 then .ok i else .error .nonzeroMbz := by
  have hz : t.extractLsb' lo k = 0#k ↔ t &&& m = 0#64 := by
    rw [land_eq_iff, hm, land_run, BitVec.toNat_eq, toNat_field]
    simp
  exact if_congr hz rfl rfl

/-- The check of the two must-be-zero fields of kind 0x03, by their mask. -/
theorem ifZero_two_fields (t : TxnWord) (i : Instr) :
    ifZero (t.extractLsb' 24 32 ++ t.extractLsb' 0 8) i =
      if t &&& 0x00FFFFFFFF0000FF#64 = 0#64 then .ok i else .error .nonzeroMbz := by
  have hruns : t.toNat &&& 0x00FFFFFFFF0000FF =
      t.toNat / 2 ^ 24 % 2 ^ 32 * 2 ^ 24 + t.toNat % 2 ^ 8 := land_two_runs t.toNat 24 32 8 (by decide)
  have hz : t.extractLsb' 24 32 ++ t.extractLsb' 0 8 = 0#40 ↔ t &&& 0x00FFFFFFFF0000FF#64 = 0#64 := by
    rw [land_eq_iff, BitVec.toNat_eq, toNat_append_add, toNat_field, toNat_field]
    simp only [BitVec.toNat_ofNat, Nat.reduceMod, Nat.reducePow, hruns]
    omega
  exact if_congr hz rfl rfl

/-- The instruction that the fields of a word spell under a kind, row by row of R61. -/
def spelled (t : TxnWord) : Nat → Instr
  | 0 => .reset
  | 1 => .iowCtrl (t.extractLsb' 0 8)
  | 2 => .iorStatus
  | 3 => .memr (t.extractLsb' 8 16)
  | 4 => .memw (t.extractLsb' 8 16) (t.extractLsb' 0 8)
  | 5 => .vsync (t.getLsbD 0)
  | 6 => .de (t.getLsbD 0)
  | 7 => .render (t.extractLsb' 0 16) (t.extractLsb' 48 4) (t.extractLsb' 16 16)
      (cursorOperand (t.getLsbD 52) (t.extractLsb' 32 16))
  | _ => .palinit

/-- Decoding by the kind and the masks of `mustBeZero` (R61, R62). -/
theorem decodeTxn_eq (t : TxnWord) :
    decodeTxn t =
      if t.toNat / 2 ^ 56 ≤ 8 then
        if t &&& mustBeZero (t.toNat / 2 ^ 56) = 0#64 then .ok (spelled t (t.toNat / 2 ^ 56))
        else .error .nonzeroMbz
      else .error .reservedKind := by
  rw [decodeTxn, ← txnKind_toNat]
  generalize (txnKind t).toNat = k
  match k with
  | 3 => exact ifZero_two_fields t _
  | 0 | 1 | 2 | 4 | 5 | 6 | 7 | 8 => exact ifZero_field t _ _ _ _ rfl
  | k + 9 => exact (if_neg (by omega)).symm

/-- A kind above 0x08 is reserved (R62). -/
theorem decodeTxn_of_reserved {t : TxnWord} (hk : 0x09 ≤ t.toNat / 2 ^ 56) :
    decodeTxn t = .error .reservedKind := by
  rw [decodeTxn_eq, if_neg (by omega)]

/-- A set must-be-zero bit of the word's kind rejects the word (R62). -/
theorem decodeTxn_of_nonzero {t : TxnWord} (hk : t.toNat / 2 ^ 56 ≤ 0x08)
    (hz : t &&& mustBeZero (t.toNat / 2 ^ 56) ≠ 0#64) : decodeTxn t = .error .nonzeroMbz := by
  rw [decodeTxn_eq, if_pos hk, if_neg hz]

/-- Under a well-formed configuration a step on a rejected word reports the word's own reason (R105). -/
theorem Machine.step_of_rejected_of_wf {s : Machine.State} {t : TxnWord} {rest : List TxnWord}
    {why : Reject} (hf : s.feed = t :: rest) (hc : s.cfg.wf = true) (hd : decodeTxn t = .error why) :
    Machine.step s = .next { s with
      feed := rest, refused := true, result := .refused (Machine.rejectReason why) } := by
  rw [Machine.step_of_rejected hf hd, if_pos hc]
  rfl

/-- Settles O3. The kind decides first, then the mask of the kind; the step turns the word down for the
reason of its rejection. -/
theorem undecodableWordIsRefused : Obligations.UndecodableWordIsRefused :=
  ⟨fun _ => decodeTxn_of_reserved, fun _ => decodeTxn_of_nonzero, fun _ _ _ hf hc =>
    ⟨fun hk => Machine.step_of_rejected_of_wf hf hc (decodeTxn_of_reserved hk),
      fun hk hz => Machine.step_of_rejected_of_wf hf hc (decodeTxn_of_nonzero hk hz)⟩⟩

/-! ### The row of a word -/

/-- The kind of a transaction (R61). The decode classes of a control byte have none; they are given 0, and no
kind spells them. -/
def Instr.kind : Instr → Nat
  | .reset | .ctrlFullram _ | .ctrlRomHiresw4 _ | .ctrlRomHiresw4Hi _ | .ctrlRomRamw4 _
  | .ctrlRomRamw4Hi _ => 0
  | .iowCtrl _ => 1
  | .iorStatus => 2
  | .memr _ => 3
  | .memw _ _ => 4
  | .vsync _ => 5
  | .de _ => 6
  | .render _ _ _ _ => 7
  | .palinit => 8

/-- The nine kinds lie below the reserved ones (R62). -/
theorem Instr.kind_le (i : Instr) : i.kind ≤ 8 := by cases i <;> simp [Instr.kind]

/-- What a kind spells has that kind. -/
theorem kind_spelled (t : TxnWord) {k : Nat} (hk : k ≤ 8) : (spelled t k).kind = k := by
  interval_cases k <;> rfl

/-- The must-be-zero bits lie below the kind (R60, R61). -/
theorem mustBeZero_lt (k : Nat) : (mustBeZero k).toNat < 2 ^ 56 := by
  unfold mustBeZero
  split <;> decide

/-- The mask of a row is the kind with the must-be-zero bits: a word has the row's match under it when it is
of that kind and those bits are zero (R60). -/
theorem land_rowMask (t : TxnWord) {k : Nat} (hk : k ≤ 8) :
    t &&& (0xFF00000000000000#64 ||| mustBeZero k) = BitVec.ofNat 64 (k * 2 ^ 56) ↔
      t.toNat / 2 ^ 56 = k ∧ t &&& mustBeZero k = 0#64 := by
  have ht := t.isLt
  have hlow : t.toNat &&& (mustBeZero k).toNat < 2 ^ 56 := Nat.and_lt_two_pow _ (mustBeZero_lt k)
  have hkind : t.toNat &&& 0xFF00000000000000 = t.toNat / 2 ^ 56 % 2 ^ 8 * 2 ^ 56 :=
    land_run t.toNat 56 8
  have hsum : t.toNat &&& (0xFF00000000000000 ||| (mustBeZero k).toNat) =
      t.toNat / 2 ^ 56 % 2 ^ 8 * 2 ^ 56 + (t.toNat &&& (mustBeZero k).toNat) := by
    rw [Nat.and_or_distrib_left, hkind, ← Nat.shiftLeft_eq, Nat.shiftLeft_add_eq_or_of_lt hlow]
  simp only [land_eq_iff, BitVec.toNat_or, BitVec.toNat_ofNat, hsum]
  omega

/-- A word decodes to a transaction when it has the match of the transaction's row under the row's mask, and
its fields are the operands (R60, R61). -/
theorem decodeTxn_eq_ok_iff {t mask mtch : TxnWord} {i : Instr} (k : Nat) (hkind : i.kind = k)
    (hmask : 0xFF00000000000000#64 ||| mustBeZero k = mask)
    (hmatch : BitVec.ofNat 64 (k * 2 ^ 56) = mtch) :
    decodeTxn t = .ok i ↔ t &&& mask = mtch ∧ spelled t k = i := by
  have hk : k ≤ 8 := hkind ▸ i.kind_le
  rw [← hmask, ← hmatch, land_rowMask t hk, decodeTxn_eq]
  constructor
  · intro h
    split at h
    next hle =>
      split at h
      next hz =>
        obtain rfl := Except.ok.inj h
        obtain rfl : _ = k := (kind_spelled t hle).symm.trans hkind
        exact ⟨⟨rfl, hz⟩, rfl⟩
      next => cases h
    next => cases h
  · rintro ⟨⟨rfl, hz⟩, hi⟩
    rw [if_pos hk, if_pos hz, hi]

/-- An operand is a field of the word, as a number (R61). -/
theorem field_eq_iff (t : TxnWord) (lo : Nat) {k : Nat} (x : BitVec k) :
    t.extractLsb' lo k = x ↔ x.toNat = t.toNat / 2 ^ lo % 2 ^ k := by
  rw [BitVec.toNat_eq, toNat_field, eq_comm]

/-- A line level is bit 0 of the word (R61). -/
theorem lowBit_eq_iff (t : TxnWord) (l : Bool) : t.getLsbD 0 = l ↔ l.toNat = t.toNat % 2 := by
  rw [getLsbD_eq_decide, Nat.pow_zero, Nat.div_one]
  cases l
  · simp only [decide_eq_false_iff_not, Bool.toNat_false]
    omega
  · simp [eq_comm]

/-- The cursor operand of a word, by bit 52 (R61). -/
theorem cursorOperand_word (t : TxnWord) :
    cursorOperand (t.getLsbD 52) (t.extractLsb' 32 16) =
      if t.toNat / 2 ^ 52 % 2 = 1 then some (BitVec.ofNat 16 (t.toNat / 2 ^ 32)) else none := by
  have hcol : t.extractLsb' 32 16 = BitVec.ofNat 16 (t.toNat / 2 ^ 32) := by
    rw [BitVec.toNat_eq, toNat_field, BitVec.toNat_ofNat]
  rw [cursorOperand, getLsbD_eq_decide, hcol]
  simp

/-- Settles O4. Each row is `decodeTxn_eq_ok_iff` at its kind; what is left is that the fields are the
operands. -/
theorem transactionWordSelectsItsRow : Obligations.TransactionWordSelectsItsRow := by
  intro t
  have row {mask mtch : TxnWord} {i : Instr} {operands : Prop} (k : Nat) (hkind : i.kind = k)
      (hmask : 0xFF00000000000000#64 ||| mustBeZero k = mask)
      (hmatch : BitVec.ofNat 64 (k * 2 ^ 56) = mtch) (hi : spelled t k = i ↔ operands) :
      decodeTxn t = .ok i ↔ t &&& mask = mtch ∧ operands :=
    (decodeTxn_eq_ok_iff k hkind hmask hmatch).trans (and_congr_right' hi)
  refine ⟨(decodeTxn_eq_ok_iff 0 rfl (by decide) (by decide)).trans (and_iff_left rfl),
    fun d => row 1 rfl (by decide) (by decide) ?_,
    (decodeTxn_eq_ok_iff 2 rfl (by decide) (by decide)).trans (and_iff_left rfl),
    fun a => row 3 rfl (by decide) (by decide) ?_,
    fun a d => row 4 rfl (by decide) (by decide) ?_,
    fun l => row 5 rfl (by decide) (by decide) ?_,
    fun l => row 6 rfl (by decide) (by decide) ?_,
    fun base ra n cur => row 7 rfl (by decide) (by decide) ?_,
    (decodeTxn_eq_ok_iff 8 rfl (by decide) (by decide)).trans (and_iff_left rfl)⟩
  · simp [spelled, field_eq_iff]
  · simp [spelled, field_eq_iff]
  · simp [spelled, field_eq_iff]
  · rw [spelled, Instr.vsync.injEq, lowBit_eq_iff]
  · rw [spelled, Instr.de.injEq, lowBit_eq_iff]
  · rw [spelled, Instr.render.injEq, cursorOperand_word, eq_comm (b := cur)]
    simp only [field_eq_iff, Nat.pow_zero, Nat.div_one, and_left_comm]

end Sys2Proof

namespace Sys2Proof.Machine

/-! ### The status read byte -/

/-- The three parts of the status read byte share no bit, so it is their sum (R52). -/
theorem statusRead_eq_add (status : Byte) (vs : Bool) :
    statusRead status vs =
      (status &&& 0x2F#8) + (BitVec.ofBool vs).zeroExtend 8 <<< 4 + 0xC0#8 := by
  have hvs : (status &&& 0x2F#8) &&& (BitVec.ofBool vs).zeroExtend 8 <<< 4 = 0#8 := by
    cases vs <;> simp [BitVec.and_assoc]
  have hfixed : ((status &&& 0x2F#8) ||| (BitVec.ofBool vs).zeroExtend 8 <<< 4) &&& 0xC0#8 = 0#8 := by
    cases vs <;> simp [BitVec.and_assoc, BitVec.and_or_distrib_right]
  rw [BitVec.add_eq_or_of_and_eq_zero _ _ hvs, BitVec.add_eq_or_of_and_eq_zero _ _ hfixed, statusRead]

/-- The value of the status read byte (R52). -/
theorem statusRead_toNat (status : Byte) (vs : Bool) :
    (statusRead status vs).toNat = (status &&& 0x2F#8).toNat + 16 * vs.toNat + 0xC0 := by
  have hstatus : (status &&& 0x2F#8).toNat ≤ 0x2F := Nat.and_le_right
  have hvs : ((BitVec.ofBool vs).zeroExtend 8 <<< 4).toNat = 16 * vs.toNat := by cases vs <;> rfl
  have hbit := vs.toNat_lt
  rw [statusRead_eq_add, BitVec.toNat_add, BitVec.toNat_add, hvs, BitVec.toNat_ofNat]
  omega

/-- The status read byte, bit by bit (R52). -/
theorem statusRead_bits (status : Byte) (vs : Bool) :
    (statusRead status vs).getLsbD 7 = true ∧ (statusRead status vs).getLsbD 6 = true ∧
    (statusRead status vs).getLsbD 5 = status.getLsbD 5 ∧ (statusRead status vs).getLsbD 4 = vs ∧
    (statusRead status vs).getLsbD 3 = status.getLsbD 3 ∧
    (statusRead status vs).getLsbD 2 = status.getLsbD 2 ∧
    (statusRead status vs).getLsbD 1 = status.getLsbD 1 ∧
    (statusRead status vs).getLsbD 0 = status.getLsbD 0 := by
  cases vs <;> simp [statusRead]

/-- Settles O30. `IOR_STATUS` returns `statusRead` and writes nothing else. -/
theorem statusReadBits : Obligations.StatusReadBits := by
  intro s hs
  obtain ⟨h7, h6, h5, h4, h3, h2, h1, h0⟩ := statusRead_bits s.status s.vs
  exact ⟨statusRead s.status s.vs, exec_of_ready hs.1 fun _ => hs.2,
    h7, h6, h5, h4, h3, h2, h1, h0, statusRead_toNat s.status s.vs⟩

end Sys2Proof.Machine

namespace Sys2Proof.Assembly

/-! ### The lines of the transactions -/

/-- The mnemonic and the printed operands of a transaction (R63). -/
def lineParts : Instr → Option (Text × List Text)
  | .reset => some ("RESET".toList, [])
  | .iowCtrl d => some ("IOW_CTRL".toList, [printByte d])
  | .iorStatus => some ("IOR_STATUS".toList, [])
  | .memr a => some ("MEMR".toList, [printWord a])
  | .memw a d => some ("MEMW".toList, [printWord a, printByte d])
  | .vsync l => some ("VSYNC".toList, [printLevel l])
  | .de l => some ("DE".toList, [printLevel l])
  | .render base ra n cur =>
    some ("RENDER".toList, [printWord base, printNibble ra, printWord n, printCursor cur])
  | .palinit => some ("PALINIT".toList, [])
  | .ctrlFullram _ | .ctrlRomHiresw4 _ | .ctrlRomHiresw4Hi _ | .ctrlRomRamw4 _
  | .ctrlRomRamw4Hi _ => none

/-- A transaction's line is its mnemonic and operands laid out. -/
theorem printLine_eq (i : Instr) :
    printLine i = (lineParts i).map fun parts => layOut parts.1 parts.2 := by
  cases i <;> simp [printLine, lineParts, layOut, later]

/-- Exactly the nine transactions have a line (R63). -/
theorem isTransaction_iff_printLine (i : Instr) :
    i.isTransaction = true ↔ ∃ line, printLine i = some line := by
  cases i <;> simp [Instr.isTransaction, printLine]

/-- A mnemonic and printed operands hold no blank, comma or dash. -/
theorem plain_lineParts {i : Instr} {m : Text} {os : List Text} (h : lineParts i = some (m, os)) :
    Plain m ∧ ∀ t ∈ os, Plain t := by
  cases i <;> cases h
  all_goals
    refine ⟨⟨by decide, by decide⟩, ?_⟩
    simp [plain_printByte, plain_printWord, plain_printNibble, plain_printLevel, plain_printCursor]

/-- A mnemonic and printed operands spell the transaction they come from (R63). -/
theorem transaction_lineParts {i : Instr} {m : Text} {os : List Text}
    (h : lineParts i = some (m, os)) : transaction m os = some i := by
  cases i <;> cases h
  all_goals
    simp [transaction, field_printByte, field_printWord, field_printNibble, level_printLevel,
      cursor_printCursor]

/-- Settles O10. A line is its transaction's parts laid out, and these spell the transaction. -/
theorem assemblyReadsBack : Obligations.AssemblyReadsBack := by
  refine ⟨isTransaction_iff_printLine, fun i line expected h => ?_,
    by decide, by decide, by decide, by decide⟩
  rw [printLine_eq, Option.map_eq_some_iff] at h
  obtain ⟨⟨m, os⟩, hparts, rfl⟩ := h
  obtain ⟨hm, hos⟩ := plain_lineParts hparts
  exact readLine_layOut hm hos (transaction_lineParts hparts) expected

end Sys2Proof.Assembly
end

section
/-! SUPPORT. Control writes (40_bank_controller): what a control byte writes, by the class its bits 1, 0 and
5 put it in (R65 to R69, R71, R72), and that the last control write alone decides (R70). -/

namespace Sys2Proof.Machine

/-! ### The class of a control byte -/

/-- A byte of class `m` has the bits of `m` under the mask 0x23 (R50). -/
theorem classBits_of_land {d m : Byte} (h : d &&& 0x23#8 = m) :
    d.getLsbD 1 = m.getLsbD 1 ∧ d.getLsbD 0 = m.getLsbD 0 ∧ d.getLsbD 5 = m.getLsbD 5 := by
  subst h
  simp

/-- A byte of the class under the mask 0x02 has bit 1 set (R50). -/
theorem fullramBit_of_land {d : Byte} (h : d &&& 0x02#8 = 0x02#8) : d.getLsbD 1 = true := by
  have hbit : (d &&& 0x02#8).getLsbD 1 = true := by rw [h]; rfl
  simpa using hbit

/-- A byte with bit 1 set selects RAM everywhere, whatever its other bits (R66, R71). -/
theorem applyControlByte_of_fullram {d : Byte} (s : State) (h : d.getLsbD 1 = true) :
    applyControlByte d s = s.select .ram .ram .ram .ram .ram .ram := by
  simp only [applyControlByte_eq, h, if_true]

/-- A byte with bit 1 clear: bit 5 chooses the view of window 1, bit 0 the target of window 4 (R67 to
R69). -/
theorem applyControlByte_of_rom {d : Byte} (s : State) (h : d.getLsbD 1 = false) :
    applyControlByte d s =
      s.select (if d.getLsbD 5 then .romHi else .rom) .rom .rom .vid .hires
        (if d.getLsbD 0 then .hires else .ram) := by
  simp only [applyControlByte_eq, h, Bool.false_eq_true, if_false]

/-- What a byte of a class with bit 1 clear writes, read off the class (R67 to R69). -/
theorem applyControlByte_of_romClass {d m : Byte} (s : State) (h : d &&& 0x23#8 = m)
    (hm : m.getLsbD 1 = false) :
    applyControlByte d s =
      s.select (if m.getLsbD 5 then .romHi else .rom) .rom .rom .vid .hires
        (if m.getLsbD 0 then .hires else .ram) := by
  obtain ⟨h1, h0, h5⟩ := classBits_of_land h
  rw [applyControlByte_of_rom s (h1.trans hm), h0, h5]

/-- Settles O12. The class gives the deciding bits; `select` writes six selections and nothing else. -/
theorem applyControlByteWritesSixSelections : Obligations.ApplyControlByteWritesSixSelections :=
  fun s _ =>
    ⟨fun h => applyControlByte_of_fullram s (fullramBit_of_land h),
      fun h => applyControlByte_of_romClass s h rfl, fun h => applyControlByte_of_romClass s h rfl,
      fun h => applyControlByte_of_romClass s h rfl, fun h => applyControlByte_of_romClass s h rfl⟩

/-! ### The last control write -/

/-- A control write in a ready state is carried out (R77). -/
theorem exec_iowCtrl_of_ready {s : State} (d : Byte) (h : s.Ready) :
    exec (.iowCtrl d) s = .next (effect (.iowCtrl d) s).2 := exec_of_ready h.1 fun _ => h.2

/-- A control write leaves a ready state ready. -/
theorem effect_iowCtrl_ready {s : State} (d : Byte) (h : s.Ready) :
    (effect (.iowCtrl d) s).2.Ready :=
  ⟨by rw [effect_cfg, h.1], (effect_booted (i := .iowCtrl d) s nofun).trans h.2⟩

/-- A control write overwrites all that an earlier one wrote (R70). -/
theorem effect_iowCtrl_overwrites (d e : Byte) (s : State) :
    (effect (.iowCtrl d) (effect (.iowCtrl e) s).2).2 = (effect (.iowCtrl d) s).2 := by
  simp only [effect, applyControlByte_eq]
  rfl

/-- After any control write, `IOW_CTRL d` answers as it would have without it (R70). -/
theorem exec_iowCtrl_after_iowCtrl {s : State} (d e : Byte) (h : s.Ready) :
    exec (.iowCtrl d) (effect (.iowCtrl e) s).2 = .next (effect (.iowCtrl d) s).2 := by
  rw [exec_iowCtrl_of_ready d (effect_iowCtrl_ready e h), effect_iowCtrl_overwrites]

/-- Bytes that agree in bits 0, 1 and 5 tell the same selections (R65). -/
theorem selectedBy_of_bits {s : State} {d d' : Byte} (h0 : d.getLsbD 0 = d'.getLsbD 0)
    (h1 : d.getLsbD 1 = d'.getLsbD 1) (h5 : d.getLsbD 5 = d'.getLsbD 5) (h : s.SelectedBy d) :
    s.SelectedBy d' := by
  rwa [State.SelectedBy, h0, h1, h5] at h

/-- Two states whose selections one byte tells have the same six (R25). -/
theorem selections_eq_of_selectedBy {s t : State} {d : Byte} (hs : s.SelectedBy d)
    (ht : t.SelectedBy d) :
    s.selR1 = t.selR1 ∧ s.selR2 = t.selR2 ∧ s.selR3 = t.selR3 ∧
      s.selW2 = t.selW2 ∧ s.selW3 = t.selW3 ∧ s.selW4 = t.selW4 := by
  obtain ⟨r1, r2, r3, w2, w3, w4⟩ := hs
  obtain ⟨r1', r2', r3', w2', w3', w4'⟩ := ht
  exact ⟨r1.trans r1'.symm, r2.trans r2'.symm, r3.trans r3'.symm, w2.trans w2'.symm,
    w3.trans w3'.symm, w4.trans w4'.symm⟩

/-- Settles O13. A control write overwrites an earlier one, its own repetition included; and the selections
after one are those its bits 0, 1 and 5 tell. -/
theorem lastControlWriteWins : Obligations.LastControlWriteWins := by
  refine ⟨fun s d e h => ?_, fun s s' d d' h0 h1 h5 => ?_⟩
  · exact ⟨_, _, exec_iowCtrl_of_ready d h, exec_iowCtrl_after_iowCtrl d d h,
      exec_iowCtrl_of_ready e h, exec_iowCtrl_after_iowCtrl d e h⟩
  · exact selections_eq_of_selectedBy
      (selectedBy_of_bits h0 h1 h5 (applyControlByte_selectedBy d s)) (applyControlByte_selectedBy d' s')

end Sys2Proof.Machine
end

section
/-! SUPPORT. The System Status Latch (41_status_latch): the control write and its class (R77), the status read
(R79, R80), the two line latches (R81 to R83) and the clock select (R78). -/

namespace Sys2Proof.Machine

/-! ### Carried out or turned down -/

/-- In a ready state every instruction is carried out. -/
theorem exec_eq_effect_of_ready {s : State} (i : Instr) (h : s.Ready) :
    exec i s = .next (effect i s).2 := exec_of_ready h.1 fun _ => h.2

/-- Before the first `RESET` an instruction that needs one is turned down (R111). -/
theorem exec_of_unbooted {i : Instr} {s : State} (hc : s.cfg.wf = true) (hb : s.booted = false)
    (hn : (effect i s).1 = true) : exec i s = .next (s.turnDown .notBooted) := by
  obtain ⟨-, hboot, -⟩ | ⟨-, -, -, he⟩ | ⟨hill, -⟩ := exec_cases i s
  · exact absurd (hb.symm.trans (hboot hn)) nofun
  · exact he
  · exact absurd (hc.symm.trans hill) nofun

/-- An instruction that is carried out leaves a ready state ready. -/
theorem effect_ready {i : Instr} {s : State} (h : s.Ready) : (effect i s).2.Ready := by
  refine ⟨by rw [effect_cfg, h.1], ?_⟩
  by_cases hr : i = .reset
  · subst hr; rfl
  · exact (effect_booted s hr).trans h.2

/-- Whether an instruction needs a `RESET` before does not hang on the state. -/
theorem effect_needsReset (i : Instr) (s s' : State) : (effect i s').1 = (effect i s).1 := by
  cases i <;> rfl

/-- Two states with the same configuration and `booted` bit: an instruction is carried out in both, or turned
down in both for the same reason (R40, R111). -/
theorem exec_alike (i : Instr) {s s' : State} (hc : s'.cfg = s.cfg) (hb : s'.booted = s.booted) :
    (exec i s = .next (effect i s).2 ∧ exec i s' = .next (effect i s').2) ∨
      ∃ why, exec i s = .next (s.turnDown why) ∧ exec i s' = .next (s'.turnDown why) := by
  have hn := effect_needsReset i s s'
  obtain ⟨hwf, hboot, he⟩ | ⟨hwf, hboot, hneeds, he⟩ | ⟨hill, he⟩ := exec_cases i s
  · exact .inl ⟨he, exec_of_ready (by rwa [hc]) (by rwa [hn, hb])⟩
  · exact .inr ⟨_, he, exec_of_unbooted (by rwa [hc]) (by rwa [hb]) (hn.trans hneeds)⟩
  · exact .inr ⟨_, he, exec_of_ill i (by rwa [hc])⟩

/-! ### The control write -/

/-- The decode class of a control byte has the effect of the byte, and needs no `RESET` (R50, R65). -/
theorem effect_decodeCtrl (d : Byte) (s : State) :
    effect (decodeCtrl d) s = (false, (applyControlByte d s).giving .nothing) := by
  unfold decodeCtrl applyControlByte
  cases d.getLsbD 1 <;> cases d.getLsbD 0 <;> cases d.getLsbD 5 <;> rfl

/-- Settles O14. Both are carried out, and the class has the effect of the byte. -/
theorem controlWriteRunsItsClass : Obligations.ControlWriteRunsItsClass := by
  intro s d h
  have hstored : (s.latchStatus d).Ready := h
  calc exec (.iowCtrl d) s
      = .next ((applyControlByte d (s.latchStatus d)).giving .nothing) := exec_iowCtrl_of_ready d h
    _ = .next (effect (decodeCtrl d) (s.latchStatus d)).2 := by rw [effect_decodeCtrl]
    _ = exec (decodeCtrl d) (s.latchStatus d) := (exec_eq_effect_of_ready _ hstored).symm

/-- Settles O28. The byte is stored whole, and the clock select is its bit 2; `select` writes six selections and
nothing else. -/
theorem controlWriteStoresAndSelects : Obligations.ControlWriteStoresAndSelects := by
  refine fun s d => ⟨fun h => ?_, fun hc hb => exec_of_unbooted hc hb rfl⟩
  obtain ⟨hstatus, hsel⟩ := effect_iowCtrl_selects d s
  refine ⟨_, exec_iowCtrl_of_ready d h, hstatus, hsel, congrArg (·.getLsbD 2) hstatus, ?_⟩
  simp only [effect, applyControlByte_eq]
  rfl

/-! ### The status read -/

/-- The status read byte with `VS` as a mask (R79). -/
theorem statusRead_eq_masks (status : Byte) (vs : Bool) :
    statusRead status vs =
      (status &&& 0x2F#8) ||| (if vs then 0x10#8 else 0x00#8) ||| 0xC0#8 := by
  cases vs <;> rfl

/-- Bit 4 of the status read byte is `VS` (R52). -/
theorem statusRead_vsBit (status : Byte) (vs : Bool) : (statusRead status vs).getLsbD 4 = vs := by
  obtain ⟨-, -, -, hbit, -⟩ := statusRead_bits status vs
  exact hbit

/-- A second status read returns and leaves what the first did (R80). -/
theorem effect_iorStatus_twice (s : State) :
    (effect .iorStatus (effect .iorStatus s).2).2 = (effect .iorStatus s).2 := rfl

/-- Settles O29. The read writes neither `S` nor `VS`, so a second one returns the same byte. -/
theorem statusReadReturnsAndKeeps : Obligations.StatusReadReturnsAndKeeps := by
  refine ⟨decodeTxn_carrier_encode (i := .iorStatus) rfl, fun s => ⟨fun h => ?_, fun hc hb =>
    exec_of_unbooted hc hb rfl⟩⟩
  refine ⟨(effect .iorStatus s).2, ?_, exec_eq_effect_of_ready _ h, ?_⟩
  · rw [← statusRead_eq_masks]
    rfl
  · rw [exec_eq_effect_of_ready _ (effect_ready h), effect_iorStatus_twice]

/-! ### The vertical-sync latch -/

/-- Settles O31. A push carried out writes `VS` alone, so the level `VS` already holds changes nothing. -/
theorem vsyncLatchesTheLevel : Obligations.VsyncLatchesTheLevel := by
  refine ⟨decodeTxn_carrier_encode (i := .vsync false) rfl,
    decodeTxn_carrier_encode (i := .vsync true) rfl, fun s l => ⟨exec_eq_effect_of_ready _,
      fun h hl => ?_, fun hc hb => exec_of_unbooted hc hb rfl⟩⟩
  subst hl
  exact exec_eq_effect_of_ready (.vsync s.vs) h

/-- Of the instructions that are carried out only `VSYNC` and `RESET` write `VS` (R11). -/
theorem effect_vs {i : Instr} (s : State) (hv : ∀ l, i ≠ .vsync l) (hr : i ≠ .reset) :
    (effect i s).2.vs = s.vs := by
  cases i with
  | vsync l => exact absurd rfl (hv l)
  | reset => exact absurd rfl hr
  | _ => simp [effect, applyControlByte_eq, selectFullRam, selectRomHiresW4, selectRomRamW4]

/-- Settles O33. The control write keeps `VS`, and bit 4 of the status read byte is `VS`. -/
theorem vsyncLevelSurvivesControlWrites : Obligations.VsyncLevelSurvivesControlWrites := by
  refine ⟨fun i s t h hv hr => ?_, fun s l d h => ?_⟩
  · obtain rfl | ⟨why, rfl⟩ := exec_eq_next h
    · exact effect_vs s hv hr
    · exact turnDown_vs why s
  · have hpushed : (effect (.vsync l) s).2.Ready := effect_ready h
    exact ⟨_, _, _, exec_eq_effect_of_ready _ h, exec_eq_effect_of_ready _ hpushed,
      exec_eq_effect_of_ready _ (effect_ready hpushed),
      (statusRead_vsBit _ _).trans (effect_vs _ nofun nofun)⟩

/-! ### The display-enable latch -/

/-- Writing a byte of a buffer and writing `DE` do not meet (R12, R18). -/
theorem poke_latchDe (s : State) (b : WriteBuffer) (i : Nat) (v : Byte) (l : Bool) :
    (s.latchDe l).poke b i v = (s.poke b i v).latchDe l := by
  cases b <;> rfl

/-- A control byte neither reads nor writes `DE` (R71). -/
theorem applyControlByte_latchDe (d : Byte) (s : State) (l : Bool) :
    applyControlByte d (s.latchDe l) = (applyControlByte d s).latchDe l := by
  simp only [applyControlByte_eq]
  rfl

/-- With another level in `DE` an instruction that is carried out leaves the same state but for `DE` (R82). -/
theorem effect_latchDe (i : Instr) (s : State) (l : Bool) :
    ∃ l', (effect i (s.latchDe l)).2 = (effect i s).2.latchDe l' := by
  cases i with
  | reset => exact ⟨Config.resetDe s.draws, rfl⟩
  | de l' => exact ⟨l', rfl⟩
  | iowCtrl d =>
    exact ⟨l, congrArg (State.giving .nothing) (applyControlByte_latchDe d (s.latchStatus d) l)⟩
  | memw a d =>
    exact ⟨l, congrArg (State.giving .nothing) (poke_latchDe s _ _ d l)⟩
  | _ => exact ⟨l, rfl⟩

/-- With another level in `DE` an instruction gives the same next state but for `DE` (R82). -/
theorem exec_latchDe {i : Instr} {s t : State} (l : Bool) (h : exec i s = .next t) :
    ∃ l', exec i (s.latchDe l) = .next (t.latchDe l') := by
  obtain ⟨hs, hs'⟩ | ⟨why, hs, hs'⟩ := exec_alike i (s := s) (s' := s.latchDe l) rfl rfl <;>
    obtain rfl := Host.Outcome.next.inj (hs.symm.trans h)
  · obtain ⟨l', hl'⟩ := effect_latchDe i s l
    exact ⟨l', hs'.trans (congrArg _ hl')⟩
  · exact ⟨l, hs'⟩

/-- No window pair depends on `DE` (R82). -/
theorem pairs_latchDe (s : State) (l : Bool) (k : Win) :
    (s.latchDe l).readPair k = s.readPair k ∧ (s.latchDe l).writePair k = s.writePair k := by
  cases k <;> exact ⟨rfl, rfl⟩

/-- Settles O32. With another level in `DE` the next state is the same but for `DE`, which no output reads. -/
theorem displayEnableIsLatchedAndUnread : Obligations.DisplayEnableIsLatchedAndUnread := by
  refine ⟨decodeTxn_carrier_encode (i := .de false) rfl, decodeTxn_carrier_encode (i := .de true) rfl,
    fun s l => ⟨exec_eq_effect_of_ready _, fun hc hb => exec_of_unbooted hc hb rfl⟩,
    fun i s t l h => ?_⟩
  obtain ⟨l', hl'⟩ := exec_latchDe l h
  exact ⟨t.latchDe l', hl', rfl, rfl, rfl, pairs_latchDe t l'⟩

/-! ### The clock select -/

/-- The pixel clock follows the clock select (R78). -/
theorem pixelClock_of_clksel (s : State) :
    (s.clksel = true → s.pixelClock = s.cfg.pixclk1) ∧
      (s.clksel = false → s.pixelClock = s.cfg.pixclk0) :=
  ⟨fun h => by rw [State.pixelClock, if_pos h], fun h => by simp [State.pixelClock, h]⟩

/-- A row depends on the status byte through the colour set, bit 3, alone (R87, R94). -/
theorem rowResult_latchStatus {s : State} {x : Byte} (hx : x.getLsbD 3 = s.status.getLsbD 3)
    (base : BitVec 16) (ra : BitVec 4) (n : Nat) (cur : Option (BitVec 16)) :
    (s.latchStatus x).rowResult base ra n cur = s.rowResult base ra n cur := by
  have halt : (s.latchStatus x).altColours = s.altColours := hx
  have hpixels : (s.latchStatus x).cellPixels base ra cur = s.cellPixels base ra cur := by
    funext c
    simp only [State.cellPixels, halt]
    rfl
  simp only [State.rowResult, State.indexRow, hpixels, latchStatus_cfg]

/-- A render with the same bit 3 in the status byte returns the same rows (R78). -/
theorem exec_render_latchStatus {s t : State} {base n : BitVec 16} {ra : BitVec 4}
    {cur : Option (BitVec 16)} {x : Byte} (hx : x.getLsbD 3 = s.status.getLsbD 3)
    (h : exec (.render base ra n cur) s = .next t) :
    exec (.render base ra n cur) (s.latchStatus x) = .next (t.latchStatus x) := by
  obtain ⟨hs, hs'⟩ | ⟨why, hs, hs'⟩ :=
      exec_alike (.render base ra n cur) (s := s) (s' := s.latchStatus x) rfl rfl <;>
    obtain rfl := Host.Outcome.next.inj (hs.symm.trans h)
  · rw [hs', effect, rowResult_latchStatus hx]
    rfl
  · exact hs'

/-- Settles O35. A render reads bit 3 of the status byte and not bit 2; `RESET` stores its draw in the whole
byte. -/
theorem clockSelectIsStatusBitTwo : Obligations.ClockSelectIsStatusBitTwo :=
  ⟨fun s => ⟨rfl, pixelClock_of_clksel s⟩, fun _ _ _ _ _ _ _ => exec_render_latchStatus,
    fun _ hc => ⟨_, exec_reset_of_wf hc, rfl⟩⟩

end Sys2Proof.Machine
end

section
/-! SUPPORT. The Raster Compositor (42_raster_compositor): what a render returns and leaves, what a cell's
pixels depend on (R93, R94), and the seven steps of a cell as arithmetic on numbers (R85 to R91). -/

namespace Sys2Proof.Machine

/-! ### The transaction -/

/-- A render in a ready state returns its rows and writes nothing else (R92, R94). -/
theorem exec_render_of_ready {s : State} (base n : BitVec 16) (ra : BitVec 4)
    (cur : Option (BitVec 16)) (h : s.Ready) :
    exec (.render base ra n cur) s = .next { s with
      result := .row (s.indexRow base ra n.toNat cur)
        ((s.indexRow base ra n.toNat cur).map (palette s.cfg)) } :=
  exec_eq_effect_of_ready _ h

/-- Two instructions with the same effect are answered alike, carried out or turned down. -/
theorem exec_eq_of_effect_eq {i j : Instr} {s : State} (h : effect i s = effect j s) :
    exec i s = exec j s := by
  obtain ⟨hwf, hboot, he⟩ | ⟨hwf, hboot, hneeds, he⟩ | ⟨hill, he⟩ := exec_cases i s
  · rw [he, h, exec_of_ready hwf (by rwa [← h])]
  · rw [he, exec_of_unbooted hwf hboot (by rwa [← h])]
  · rw [he, exec_of_ill j hill]

/-- Two renders that make the same pixels of every column are answered alike. -/
theorem exec_render_of_cellPixels {s : State} {base base' n : BitVec 16} {ra : BitVec 4}
    {cur cur' : Option (BitVec 16)}
    (h : ∀ x, x < n.toNat → s.cellPixels base ra cur x = s.cellPixels base' ra cur' x) :
    exec (.render base ra n cur) s = exec (.render base' ra n cur') s := by
  have hrow : s.indexRow base ra n.toNat cur = s.indexRow base' ra n.toNat cur' :=
    List.flatMap_congr fun x hx => h x (List.mem_range.mp hx)
  exact exec_eq_of_effect_eq (by rw [effect, effect, State.rowResult, State.rowResult, hrow])

/-! ### The seven steps in numbers -/

/-- The foreground index of an attribute byte (R53, R87). -/
theorem fgIndex_attrFg_val (alt : Bool) (attr : Byte) :
    (fgIndex alt (attrFg attr)).val = (if alt then 16 else 0) + attr.toNat / 16 := by
  have hattr := attr.isLt
  simp only [fgIndex, attrFg, toNat_field]
  omega

/-- The background index of an attribute byte (R53, R88). -/
theorem bgIndex_attrBg_val (attr : Byte) : (bgIndex (attrBg attr)).val = 32 + attr.toNat / 2 % 8 := by
  simp only [bgIndex, attrBg, toNat_field]
  rfl

/-- The override applies to an odd attribute and a character code from 128 (R54). -/
theorem hiresCell_iff (chr attr : Byte) :
    hiresCell chr attr = true ↔ attr.toNat % 2 = 1 ∧ 128 ≤ chr.toNat := by
  have hchr := chr.isLt
  simp only [hiresCell, Bool.and_eq_true, getLsbD_eq_decide, decide_eq_true_eq]
  omega

/-- The glyph byte in numbers (R55, R89). -/
theorem glyphByte_eq (s : State) (chr attr : Byte) (ra : BitVec 4) :
    s.glyphByte chr attr ra =
      if attr.toNat % 2 = 1 ∧ 128 ≤ chr.toNat then Memory.read s.hires (chr.toNat * 16 + ra.toNat)
      else Memory.read s.cfg.charromImage.cells (chr.toNat * 16 + ra.toNat) := by
  simp only [State.glyphByte, hiresCell_iff, glyphIndex, toNat_append_add, Cfg.charrom]
  rfl

/-- Whether a column is under the cursor, in numbers (R90). -/
theorem isCursor_iff (cur : Option (BitVec 16)) (x : Nat) :
    isCursor cur x = true ↔ cur.map BitVec.toNat = some x := by
  cases cur <;> simp [isCursor]

/-- The glyph byte shown, as a number (R90). -/
theorem underCursor_isCursor_toNat (cur : Option (BitVec 16)) (x : Nat) (g : Byte) :
    (underCursor (isCursor cur x) g).toNat =
      if cur.map BitVec.toNat = some x then 255 - g.toNat else g.toNat := by
  simp only [underCursor, isCursor_iff, apply_ite BitVec.toNat, BitVec.toNat_not]

/-- Entry `8x + i` of a row is one of the two colours of cell `x`, as bit `7 - i` of the glyph byte shown
says (R91). -/
theorem indexRow_pixel (s : State) (base : BitVec 16) (ra : BitVec 4) (n : Nat)
    (cur : Option (BitVec 16)) {x i : Nat} (hx : x < n) (hi : i < 8) :
    (s.indexRow base ra n cur)[8 * x + i]? = some
      (if (underCursor (isCursor cur x)
          (s.glyphByte (s.cellChr base x) (s.cellAttr base x) ra)).getLsbD (7 - i) then
        fgIndex s.altColours (attrFg (s.cellAttr base x))
      else bgIndex (attrBg (s.cellAttr base x))) :=
  (indexRow_entry s base ra n cur hx hi).trans (expandGlyph_pixel _ _ _ hi)

/-- Settles O36. Each of the seven steps is the arithmetic the statement spells. -/
theorem renderedRowFollowsTheSevenSteps : Obligations.RenderedRowFollowsTheSevenSteps := by
  intro s base n ra cur h
  refine ⟨_, exec_render_of_ready base n ra cur h, indexRow_length s base ra _ cur, ?_⟩
  intro x i hx hi mem chr attr fg bg gi g shown
  refine ⟨_, indexRow_pixel s base ra _ cur hx hi, ?_⟩
  rw [apply_ite Fin.val, fgIndex_attrFg_val, bgIndex_attrBg_val, getLsbD_eq_decide,
    underCursor_isCursor_toNat, glyphByte_eq]
  simp only [decide_eq_true_eq]
  rfl

/-! ### What a cell's pixels depend on -/

/-- The base and the column of a cell count through its address, and through the column being the
cursor's (R85, R90). -/
theorem cellPixels_of_cellAddr (s : State) {base base' : BitVec 16} (ra : BitVec 4)
    {cur cur' : Option (BitVec 16)} {x x' : Nat} (ha : cellAddr base x = cellAddr base' x')
    (hc : isCursor cur x = isCursor cur' x') :
    s.cellPixels base ra cur x = s.cellPixels base' ra cur' x' := by
  simp only [State.cellPixels, State.cellChr, State.cellAttr, ha, hc]

/-- States that agree on the character ROM, `S[3]`, `VRAM` and `HIRES` have the same index rows (R94). -/
theorem indexRow_of_sources {s s' : State} (hrom : s.cfg.charromImage = s'.cfg.charromImage)
    (halt : s.altColours = s'.altColours) (hvram : s.vram = s'.vram) (hhires : s.hires = s'.hires)
    (base : BitVec 16) (ra : BitVec 4) (n : Nat) (cur : Option (BitVec 16)) :
    s.indexRow base ra n cur = s'.indexRow base ra n cur := by
  have hpixels : s.cellPixels base ra cur = s'.cellPixels base ra cur := by
    funext x
    simp only [State.cellPixels, State.cellChr, State.cellAttr, glyphByte_eq, hrom, halt, hvram,
      hhires]
  rw [State.indexRow, hpixels, State.indexRow]

/-- The palette reads the character ROM alone (R100). -/
theorem palette_of_charromImage {c c' : Cfg} (h : c.charromImage = c'.charromImage) :
    palette c = palette c' := by
  funext i
  simp only [palette, Cfg.charrom, h]

/-- Settles O37. The index row and the palette are each functions of the four sources. -/
theorem renderReadsOnlyItsSources : Obligations.RenderReadsOnlyItsSources := by
  intro s s' base n ra cur hs hs' hrom halt hvram hhires
  refine ⟨_, exec_render_of_ready base n ra cur hs, ?_⟩
  rw [exec_render_of_ready base n ra cur hs', indexRow_of_sources hrom halt hvram hhires,
    palette_of_charromImage hrom]

/-- A cell's address takes the base mod 2048 (R93). -/
theorem cellAddr_base_mod (base : BitVec 16) (x : Nat) :
    cellAddr (BitVec.ofNat 16 (base.toNat % 2048)) x = cellAddr base x := by
  rw [cellAddr, cellAddr, BitVec.toNat_ofNat]
  omega

/-- Columns 2048 apart show the same cell (R93). -/
theorem cellAddr_add_2048 (base : BitVec 16) (x : Nat) :
    cellAddr base (x + 2048) = cellAddr base x := by
  rw [cellAddr, cellAddr]
  omega

/-- Column `x` is not under a cursor at another column (R90). -/
theorem isCursor_of_ne {c : BitVec 16} {x : Nat} (h : x ≠ c.toNat) : isCursor (some c) x = false :=
  beq_false_of_ne h.symm

/-- Settles O38. A base mod 2048, a column 2048 further and a cursor outside the row each leave a cell's
address, and whether it is under the cursor, as they were. -/
theorem renderOperandDomains : Obligations.RenderOperandDomains := by
  refine ⟨fun s base n ra cur => ?_, fun s base ra cur h => ?_, fun s base n ra h => ?_,
    fun s base n ra c hc => ?_⟩
  · exact exec_render_of_cellPixels fun x _ =>
      cellPixels_of_cellAddr s ra (cellAddr_base_mod base x).symm rfl
  · exact exec_render_of_ready base 0#16 ra cur h
  · refine ⟨_, _, exec_render_of_ready base n ra none h, fun x i hx hi => ?_⟩
    rw [indexRow_entry s base ra _ none hx hi, indexRow_entry s base ra _ none (by omega) hi,
      cellPixels_of_cellAddr s ra (cur' := none) (cellAddr_add_2048 base x) rfl]
  · exact exec_render_of_cellPixels fun x hx =>
      cellPixels_of_cellAddr s ra rfl (isCursor_of_ne (by omega))

/-! ### The cursor -/

/-- No foreground index is a background index: the one is below 32, the other is not (R87, R88). -/
theorem fgIndex_ne_bgIndex (alt : Bool) (fg : BitVec 4) (bg : BitVec 3) : fgIndex alt fg ≠ bgIndex bg := by
  intro h
  have hval : (if alt then 16 else 0) + fg.toNat = 32 + bg.toNat := congrArg Fin.val h
  have hfg := fg.isLt
  split at hval <;> omega

/-- Column `c` is under a cursor at `c` (R90). -/
theorem isCursor_self (c : BitVec 16) : isCursor (some c) c.toNat = true := beq_self_eq_true _

/-- The cursor inverts every bit of the glyph byte (R90). -/
theorem underCursor_getLsbD (g : Byte) {i : Nat} (hi : i < 8) :
    (underCursor true g).getLsbD i = !(underCursor false g).getLsbD i := by
  simp [underCursor, hi]

/-- Settles O39. Another column has the cursor nowhere either way; in the cursor's column the bit that
chooses between the two colours is inverted. -/
theorem cursorInvertsItsColumn : Obligations.CursorInvertsItsColumn := by
  intro s base n ra c h
  refine ⟨_, _, _, _, exec_render_of_ready base n ra none h,
    exec_render_of_ready base n ra (some c) h, fun x i hx hi hxc => ?_, fun x i hx hi hxc => ?_⟩
  · rw [indexRow_entry s base ra _ _ hx hi, indexRow_entry s base ra _ _ hx hi,
      cellPixels_of_cellAddr s ra (cur' := none) rfl (isCursor_of_ne hxc)]
  · subst hxc
    refine ⟨_, _, rfl, rfl, fgIndex_ne_bgIndex _ _ _, ?_⟩
    rw [indexRow_pixel s base ra _ none hx hi, indexRow_pixel s base ra _ (some c) hx hi,
      isCursor_self, underCursor_getLsbD _ (by omega), isCursor]
    cases (underCursor false (s.glyphByte (s.cellChr base c.toNat) (s.cellAttr base c.toNat) ra)).getLsbD
      (7 - i)
    · exact .inr ⟨rfl, rfl⟩
    · exact .inl ⟨rfl, rfl⟩

end Sys2Proof.Machine
end

section
/-! SUPPORT. The Palette (43_palette): `PALINIT` (R96), the foreground colours as weighted sums (R97, R98), the
background colours (R99), and what the palette depends on (R100). -/

namespace Sys2Proof.Machine

/-! ### The foreground colours -/

/-- A weighed bit is its weight times the bit (R98). -/
theorem weighBit_eq (code : Byte) (i w : Nat) : weighBit code i w = w * (code.toNat / 2 ^ i % 2) := by
  rw [weighBit, getLsbD_eq_decide]
  obtain hbit | hbit := Nat.mod_two_eq_zero_or_one (code.toNat / 2 ^ i) <;> simp [hbit]

/-- The components of a weighed colour code. The weights of each add up to at most 255, so its byte holds the
sum whole (R98). -/
theorem weigh_toNat (code : Byte) :
    (weigh code).red.toNat =
      38 * (code.toNat % 2) + 73 * (code.toNat / 2 % 2) + 144 * (code.toNat / 4 % 2) ∧
    (weigh code).blue.toNat =
      38 * (code.toNat / 8 % 2) + 73 * (code.toNat / 16 % 2) + 144 * (code.toNat / 32 % 2) ∧
    (weigh code).green.toNat = 85 * (code.toNat / 64 % 2) + 170 * (code.toNat / 128 % 2) := by
  simp only [weigh, weighBit_eq, BitVec.toNat_ofNat, Nat.reducePow, Nat.div_one]
  omega

/-- An entry below 32 is the weighed colour code of the character ROM (R97). -/
theorem palette_of_lt (c : Cfg) {i : PalIndex} (hi : i.val < 32) :
    palette c i = weigh (Memory.read c.charromImage.cells (0x1000 + i.val)) := if_pos hi

/-- Settles O41. The entry is the weighed code, and the components of a weighed code are the sums. -/
theorem foregroundColoursAreWeighedCodes : Obligations.ForegroundColoursAreWeighedCodes := by
  intro c i hi
  rw [palette_of_lt c hi]
  exact weigh_toNat _

/-! ### The background colours -/

/-- The table of the background colours, bit by bit of the number: red, blue, green (R99). -/
theorem backgroundColour_toNat : ∀ bg : BitVec 3, backgroundColour bg.toNat = {
    red := if bg.getLsbD 0 then 255 else 0
    blue := if bg.getLsbD 1 then 255 else 0
    green := if bg.getLsbD 2 then 255 else 0 } := by decide

/-- The entry of a background index is the background colour of its number (R99). -/
theorem palette_bgIndex (c : Cfg) (bg : BitVec 3) :
    palette c (bgIndex bg) = backgroundColour bg.toNat := by
  have hbg : ¬(bgIndex bg).val < 32 := Nat.not_lt.mpr (Nat.le_add_right 32 bg.toNat)
  rw [palette, if_neg hbg, bgIndex, Nat.add_sub_cancel_left]

/-- A foreground index is below 32, in either colour set (R87). -/
theorem fgIndex_lt (alt : Bool) (fg : BitVec 4) : (fgIndex alt fg).val < 32 := by
  have hfg := fg.isLt
  simp only [fgIndex]
  split <;> omega

/-- Settles O42. Entries 32 to 39 are those of the eight background indices. -/
theorem backgroundColoursAreFixed : Obligations.BackgroundColoursAreFixed :=
  ⟨fun c => ⟨palette_bgIndex c 0, palette_bgIndex c 1, palette_bgIndex c 2, palette_bgIndex c 3,
      palette_bgIndex c 4, palette_bgIndex c 5, palette_bgIndex c 6, palette_bgIndex c 7⟩,
    fun c bg => (palette_bgIndex c bg).trans (backgroundColour_toNat bg), fgIndex_lt⟩

/-! ### What the palette depends on, and `PALINIT` -/

/-- Settles O43. The palette reads the configuration's character ROM alone, and no step writes the
configuration. -/
theorem paletteIsAFunctionOfTheCharacterRom : Obligations.PaletteIsAFunctionOfTheCharacterRom := by
  refine ⟨fun _ _ => palette_of_charromImage, fun s t h => ?_⟩
  obtain ⟨-, hcfg⟩ := stepTakesOneInputAndKeepsTheConfiguration s t h
  rw [hcfg]

/-- `PALINIT` under a well-formed configuration, booted or not, returns nothing and writes no state (R96). -/
theorem exec_palinit_of_wf {s : State} (hc : s.cfg.wf = true) :
    exec .palinit s = .next { s with result := .nothing } := accepted_of_wf _ hc

/-- Settles O40. What `PALINIT` leaves is a state it leaves as it is. -/
theorem paletteInitializeChangesNothing : Obligations.PaletteInitializeChangesNothing :=
  ⟨decodeTxn_carrier_encode (i := .palinit) rfl, fun s hc =>
    ⟨{ s with result := .nothing }, exec_palinit_of_wf hc, rfl, exec_palinit_of_wf hc, rfl,
      palette_bgIndex s.cfg 5⟩⟩

end Sys2Proof.Machine
end

section
/-! SUPPORT. Refusals (60_exceptions rule R105): the case in which each reason applies, and that a step on a
word is turned down for a reason whose case holds, or is carried out when no case does. -/

namespace Sys2Proof.Machine

/-- The case in which the block turns down the word `w` for a reason (R105). -/
def RefusalCase (s : State) (w : TxnWord) : RefuseReason → Prop
  | .cfgIllFormed => s.cfg.wf = false
  | .reservedKind => decodeTxn w = .error .reservedKind
  | .nonzeroMbz => decodeTxn w = .error .nonzeroMbz
  | .notBooted => s.booted = false ∧ ∃ i, decodeTxn w = .ok i ∧ i ≠ .reset ∧ i ≠ .palinit

/-- The four cases, written as one disjunction. -/
theorem exists_refusalCase_iff (s : State) (w : TxnWord) :
    (∃ why, RefusalCase s w why) ↔
      (s.cfg.wf = false ∨ decodeTxn w = .error .reservedKind ∨ decodeTxn w = .error .nonzeroMbz ∨
        s.booted = false ∧ ∃ i, decodeTxn w = .ok i ∧ i ≠ .reset ∧ i ≠ .palinit) := by
  constructor
  · rintro ⟨_ | _ | _ | _, h⟩
    · exact .inl h
    · exact .inr (.inl h)
    · exact .inr (.inr (.inl h))
    · exact .inr (.inr (.inr h))
  · rintro (h | h | h | h)
    · exact ⟨.cfgIllFormed, h⟩
    · exact ⟨.reservedKind, h⟩
    · exact ⟨.nonzeroMbz, h⟩
    · exact ⟨.notBooted, h⟩

/-- Of the nine transactions all but `RESET` and `PALINIT` need a `RESET` before (R111). -/
theorem transaction_needsReset_iff {i : Instr} (s : State) (hi : i.isTransaction = true) :
    (effect i s).1 = true ↔ i ≠ .reset ∧ i ≠ .palinit := by
  cases i with
  | reset | palinit | iowCtrl | iorStatus | memr | memw | vsync | de | render => simp [effect]
  | _ => cases hi

/-- A rejected word is turned down for its own reason, or for the configuration's. -/
theorem refusalCase_of_rejected {s : State} {w : TxnWord} {e : Reject}
    (hd : decodeTxn w = .error e) :
    RefusalCase s w (if s.cfg.wf then rejectReason e else .cfgIllFormed) := by
  cases hc : s.cfg.wf
  · exact hc
  · cases e <;> exact hd

/-- No case holds of a decoded word when the configuration is well-formed and the `RESET` that the
transaction may need has been taken. -/
theorem not_refusalCase_of_carriedOut {s : State} {w : TxnWord} {i : Instr}
    (hd : decodeTxn w = .ok i) (hc : s.cfg.wf = true)
    (hb : i ≠ .reset ∧ i ≠ .palinit → s.booted = true) (why : RefuseReason) :
    ¬ RefusalCase s w why := by
  intro h
  cases why with
  | cfgIllFormed => exact absurd (hc.symm.trans h) nofun
  | reservedKind | nonzeroMbz => exact absurd (hd.symm.trans h) nofun
  | notBooted =>
    obtain ⟨hoff, j, hj, hneeds⟩ := h
    obtain rfl := Except.ok.inj (hd.symm.trans hj)
    exact absurd (hoff.symm.trans (hb hneeds)) nofun

/-- A step on a word turns it down for a reason whose case holds, or no case holds and it carries out the
transaction that the word spells (R105). -/
theorem step_turnedDown_or_carriedOut {s t : State} {w : TxnWord} {rest : List TxnWord}
    (hf : s.feed = w :: rest) (h : step s = .next t) :
    (∃ why, RefusalCase s w why ∧ t = (s.awaiting rest).turnDown why) ∨
      (∀ why, ¬ RefusalCase s w why) ∧
        ∃ i, decodeTxn w = .ok i ∧ t = (effect i (s.awaiting rest)).2 := by
  cases hd : decodeTxn w with
  | error e =>
    exact .inl ⟨_, refusalCase_of_rejected hd,
      Host.Outcome.next.inj (h.symm.trans (step_of_rejected hf hd))⟩
  | ok i =>
    have hneeds := transaction_needsReset_iff (s.awaiting rest) (decodeTxn_isTransaction hd)
    have hexec := (step_of_decoded hf hd).symm.trans h
    obtain ⟨hc, hb, he⟩ | ⟨-, hb, hn, he⟩ | ⟨hc, he⟩ := exec_cases i (s.awaiting rest) <;>
      obtain rfl := Host.Outcome.next.inj (he.symm.trans hexec)
    · exact .inr ⟨not_refusalCase_of_carriedOut hd hc fun hi => hb (hneeds.mpr hi), i, rfl, rfl⟩
    · exact .inl ⟨.notBooted, ⟨hb, i, hd, hneeds.mp hn⟩, rfl⟩
    · exact .inl ⟨.cfgIllFormed, hc, rfl⟩

/-- Settles O48. A word turned down is turned down for a reason whose case holds, and the refusal writes
`refused` and the result alone; a word carried out meets no case, returns no refusal and keeps `refused`. -/
theorem refusedInExactlyFourCases : Obligations.RefusedInExactlyFourCases := by
  intro s t w rest hf h
  rw [← exists_refusalCase_iff]
  obtain ⟨why, hcase, rfl⟩ | ⟨hnone, i, -, rfl⟩ := step_turnedDown_or_carriedOut hf h
  · have hreason {r : RefuseReason} (hr : Result.refused why = .refused r) : RefusalCase s w r :=
      Result.refused.inj hr ▸ hcase
    exact ⟨⟨fun _ => ⟨why, hcase⟩, fun _ => ⟨why, rfl⟩⟩, hreason, hreason, hreason, hreason,
      fun _ => rfl, fun hno => absurd ⟨why, rfl⟩ hno⟩
  · have hno {r : RefuseReason} {p : Prop} (hr : (effect i (s.awaiting rest)).2.result = .refused r) :
        p := absurd hr (effect_result_ne_refused i _ r)
    exact ⟨⟨fun ⟨_, hr⟩ => hno hr, fun ⟨r, hcase⟩ => absurd hcase (hnone r)⟩, hno, hno, hno, hno,
      fun ⟨_, hr⟩ => hno hr, fun _ => effect_refused i _⟩

end Sys2Proof.Machine
end

section
/-! SUPPORT. Reset and hazards (70_reset_and_hazards): what `RESET` leaves (R109), the refusals before the first
`RESET` (R111) and the windows right after one (R113). -/

namespace Sys2Proof.Machine

/-- `RESET` leaves a ready block with the eight selections of R109 and no value returned. -/
theorem exec_reset_ready {s : State} (hc : s.cfg.wf = true) :
    exec .reset s = .next (s.machineReset.giving .nothing) ∧
      (s.machineReset.giving .nothing).Ready ∧
      (s.machineReset.giving .nothing).ResetSelections :=
  ⟨exec_reset_of_wf hc, ⟨by simp [hc], by simp⟩, by simp [State.ResetSelections]⟩

/-- Settles O44. What `RESET` writes is the selections, the draws and `booted`; it returns nothing, and every
other field is outside what it writes. -/
theorem resetLeavesTheInitialState : Obligations.ResetLeavesTheInitialState := by
  refine ⟨decodeTxn_carrier_encode (i := .reset) rfl, fun s hc => ?_⟩
  obtain ⟨hexec, ⟨-, hbooted⟩, hsel⟩ := exec_reset_ready hc
  exact ⟨_, hexec, hsel, rfl, rfl, rfl, hbooted, rfl, rfl, rfl, rfl, rfl, rfl, rfl⟩

/-- Settles O46. The seven transactions other than `RESET` and `PALINIT` are those that need a `RESET`. -/
theorem beforeResetTransactionsAreRefused : Obligations.BeforeResetTransactionsAreRefused :=
  fun _ s hi hr hp hc hb =>
    exec_of_unbooted hc hb ((transaction_needsReset_iff s hi).mpr ⟨hr, hp⟩)

/-- The read pairs that the Bank Table gives the selections of R109 (R34, R38). -/
theorem readPairs_of_resetSelections {s : State} (h : s.ResetSelections) :
    s.readPair .w1 = (.rom1, 0) ∧
      s.readPair .w2 = (romBuffer s.cfg.romviewR2.bank, s.cfg.romviewR2.off) ∧
      s.readPair .w3 = (romBuffer s.cfg.romviewR3.bank, s.cfg.romviewR3.off) ∧
      s.readPair .w4 = (.ram, s.cfg.win4.base) := by
  obtain ⟨hr1, hr2, hr3, -⟩ := h
  simp [State.readPair, romEntry, hr1, hr2, hr3]

/-- The write pairs that the Bank Table gives the selections of R109 (R35, R38). -/
theorem writePairs_of_resetSelections {s : State} (h : s.ResetSelections) :
    s.writePair .w1 = (.ram, s.cfg.win1.base) ∧ s.writePair .w2 = (.vram, 0) ∧
      s.writePair .w3 = (.hires, 0) ∧ s.writePair .w4 = (.ram, s.cfg.win4.base) := by
  obtain ⟨-, -, -, -, -, hw2, hw3, hw4⟩ := h
  simp [State.writePair, hiresEntry, hw2, hw3, hw4]

/-- Settles O26. The eight pairs are those of the selections that `RESET` leaves, under the configuration it
keeps; window 1 then reads ROM1 from its first byte on. -/
theorem windowsAfterReset : Obligations.WindowsAfterReset := by
  intro s hc
  obtain ⟨hexec, hready, hsel⟩ := exec_reset_ready hc
  obtain ⟨hr1, hr2, hr3, hr4⟩ := readPairs_of_resetSelections hsel
  obtain ⟨hw1, hw2, hw3, hw4⟩ := writePairs_of_resetSelections hsel
  exact ⟨_, hexec, hr1, hr2, hr3, hr4, hw1, hw2, hw3, hw4, fun _ hlo hhi =>
    exec_memr_of_covers hready (k := .w1) (Window_covers.mpr ⟨hlo, hhi⟩) hr1 (Nat.zero_add _)⟩

end Sys2Proof.Machine
end

section
/-! SUPPORT. The encodings as a whole (30_encoding): the decoder reads back what the encoder writes, whatever
decodes is well-formed, and the encoder writes back what the decoder reads, but for an ignored cursor field. -/

namespace Sys2Proof

/-! ### From an instruction to its bits and back -/

/-- An instruction that a control byte spells is well-formed when it is the byte's own class (R50). -/
theorem wf_iff_decodeCtrl {i : Instr} {d : Byte} (h : encode i = .ctrl d) :
    i.wf = true ↔ decodeCtrl d = i := by
  obtain ⟨fullram, hiresw4, hiresw4Hi, ramw4, ramw4Hi⟩ := decodeCtrl_eq_iff d
  cases i with
  | ctrlFullram => cases h; exact beq_iff_eq.trans fullram.symm
  | ctrlRomHiresw4 => cases h; exact beq_iff_eq.trans hiresw4.symm
  | ctrlRomHiresw4Hi => cases h; exact beq_iff_eq.trans hiresw4Hi.symm
  | ctrlRomRamw4 => cases h; exact beq_iff_eq.trans ramw4.symm
  | ctrlRomRamw4Hi => cases h; exact beq_iff_eq.trans ramw4Hi.symm
  | _ => cases h

/-- An instruction that a word spells is a transaction (R5). -/
theorem isTransaction_of_encode {i : Instr} {t : TxnWord} (h : encode i = .txn t) :
    i.isTransaction = true := by
  cases i <;> first | rfl | cases h

/-- Settles O5. A well-formed decode class is that of its byte, and a transaction is read back from the word
that brings it. -/
theorem decodeOfEncode : Obligations.DecodeOfEncode := by
  intro i hwf
  cases he : encode i with
  | ctrl d => exact congrArg Except.ok ((wf_iff_decodeCtrl he).mp hwf)
  | txn t =>
    have hcarrier := decodeTxn_carrier_encode (isTransaction_of_encode he)
    rwa [he] at hcarrier

/-- The class of a control byte is spelled by that byte (R49, R50). -/
theorem encode_decodeCtrl (d : Byte) : encode (decodeCtrl d) = .ctrl d := by
  obtain h | h | h | h | h := decodeCtrl_operand d <;> rw [h] <;> rfl

/-- Every transaction is well-formed: its operand types carry their widths (R61). -/
theorem wf_of_isTransaction {i : Instr} (h : i.isTransaction = true) : i.wf = true := by
  cases i <;> first | rfl | cases h

/-- Settles O7. A word decodes to a transaction, and a control byte to its own class. -/
theorem decodedInstructionIsWellFormed : Obligations.DecodedInstructionIsWellFormed := by
  rintro (t | d) i h
  · exact wf_of_isTransaction (decodeTxn_isTransaction h)
  · obtain rfl : decodeCtrl d = i := Except.ok.inj h
    exact (wf_iff_decodeCtrl (encode_decodeCtrl d)).mpr rfl

/-! ### From a word to an instruction and back -/

/-- The bit of a line level as a number (R61). -/
theorem ofBool_lowBit_toNat (t : TxnWord) : (BitVec.ofBool (t.getLsbD 0)).toNat = t.toNat % 2 := by
  rw [BitVec.toNat_ofBool]
  exact (lowBit_eq_iff t _).mp rfl

/-- A word of any kind but `RENDER` is the sum of its kind and its fields, its must-be-zero bits being zero, so
the encoder gives it back (R61). -/
theorem encode_of_decodeTxn {t : TxnWord} {i : Instr} (h : decodeTxn t = .ok i)
    (hne : t.toNat / 2 ^ 56 ≠ 7) : encode i = .txn t := by
  have ht := t.isLt
  rw [decodeTxn, txnKind_toNat] at h
  split at h
  case h_8 hkind => exact absurd hkind hne
  case h_10 => cases h
  all_goals
    obtain ⟨hz, rfl⟩ := (ifZero_eq_ok _ _ _).mp h
    rw [encode, Code.txn.injEq, BitVec.toNat_eq]
    simp only [encodeIowCtrl, toNat_append_add, toNat_field, ofBool_lowBit_toNat,
      BitVec.toNat_ofNat] at hz ⊢
    simp only [Nat.reducePow, Nat.reduceMod, Nat.reduceMul, Nat.reduceAdd, Nat.add_eq_zero_iff,
      Nat.mul_eq_zero, OfNat.ofNat_ne_zero, or_false] at hz ⊢
    omega

/-- A `RENDER` word is `encodeRender` of its fields, with a cursor field of zeros where its bit `cv` is 0 (R61,
D19; log 14). -/
theorem encode_of_renderWord {t : TxnWord} {i : Instr} (h : decodeTxn t = .ok i)
    (hkind : t.toNat / 2 ^ 56 = 7) :
    encode i = .txn (if t.toNat / 2 ^ 52 % 2 = 0 then t &&& 0xFFFF0000FFFFFFFF#64 else t) := by
  have ht := t.isLt
  have hmask : (t &&& 0xFFFF0000FFFFFFFF#64).toNat =
      t.toNat / 2 ^ 48 % 2 ^ 16 * 2 ^ 48 + t.toNat % 2 ^ 32 :=
    (BitVec.toNat_and _ _).trans (land_two_runs t.toNat 48 16 32 (by decide))
  simp only [decodeTxn, txnKind_toNat, hkind] at h
  obtain ⟨hz, rfl⟩ := (ifZero_eq_ok _ _ _).mp h
  rw [toNat_field] at hz
  rw [encode, Code.txn.injEq, BitVec.toNat_eq, encodeRender_toNat, getLsbD_eq_decide]
  split
  next hcv =>
    have hno : t.toNat / 2 ^ 52 % 2 ≠ 1 := by omega
    simp only [hno, decide_false, cursorOperand, Bool.false_eq_true, if_false, Option.isSome_none,
      Bool.toNat_false, Option.getD_none, toNat_field, hmask, BitVec.toNat_ofNat]
    omega
  next hcv =>
    have hyes : t.toNat / 2 ^ 52 % 2 = 1 := by omega
    simp only [hyes, decide_true, cursorOperand, if_true, Option.isSome_some, Bool.toNat_true,
      Option.getD_some, toNat_field]
    omega

/-- Settles O6. A word is the sum of its fields; only a `RENDER` without a cursor has one that its instruction
does not keep. -/
theorem encodeOfDecode : Obligations.EncodeOfDecode := by
  refine ⟨fun t i h => ?_, encode_decodeCtrl⟩
  by_cases hkind : t.toNat / 2 ^ 56 = 7
  · simpa only [hkind, true_and] using encode_of_renderWord h hkind
  · rw [if_neg fun hrender => hkind hrender.1]
    exact encode_of_decodeTxn h hkind

/-! ### Words written out -/

/-- Settles O9. Each word is taken apart into numerals. -/
theorem spelledWordsDecode : Obligations.SpelledWordsDecode :=
  ⟨rfl, rfl, rfl, rfl, rfl, rfl, rfl, rfl⟩

end Sys2Proof
end

section
/-! SUPPORT. The buffers through a step (10_state, 20_memory): what a poke leaves in each buffer, that every step
keeps the three buffers canonical and inside their sizes (R9, R18), and what the two memory transactions read
and write (R39, R43 to R48, R73 to R75). -/

namespace Sys2Proof.Machine

/-! ### The invariant of the buffers -/

/-- A write inside a buffer keeps its listing canonical and inside its size. -/
theorem Memory.Fits.write {n i : Nat} {m : Memory} (hm : Memory.Fits n m) (hi : i < n) (v : Byte) :
    Memory.Fits n (Memory.write m i v) := by
  obtain ⟨hwf, hwithin⟩ := hm
  exact ⟨Memory.write_wf i v hwf, Memory.write_within hwithin hi⟩

/-- The invariant of the buffers, buffer by buffer. -/
theorem buffersFit_iff {s : State} :
    s.BuffersFit ↔ ∀ b, Memory.Fits (writeSize s.cfg b) (s.writable b) :=
  ⟨fun ⟨hram, hvram, hhires⟩ b => by cases b <;> assumption,
    fun h => ⟨h .ram, h .vram, h .hires⟩⟩

/-- The invariant speaks of the buffers and of the configuration alone. -/
theorem buffersFit_congr {s t : State} (hc : t.cfg = s.cfg) (hb : ∀ b, t.writable b = s.writable b)
    (hs : s.BuffersFit) : t.BuffersFit :=
  buffersFit_iff.mpr fun b => by
    rw [hc, hb]
    exact buffersFit_iff.mp hs b

/-- A poke inside a buffer keeps the invariant: the other two buffers are as they were. -/
theorem poke_buffersFit {s : State} {b : WriteBuffer} {i : Nat} (v : Byte) (hs : s.BuffersFit)
    (hi : i < writeSize s.cfg b) : (s.poke b i v).BuffersFit := by
  refine buffersFit_iff.mpr fun b' => ?_
  rw [poke_cfg, poke_writable]
  split
  next h => exact h ▸ (buffersFit_iff.mp hs b).write hi v
  next => exact buffersFit_iff.mp hs b'

/-- Of the instructions that are carried out only `MEMW` writes a buffer (R43, R74). -/
theorem effect_writable {i : Instr} (s : State) (hw : ∀ a d, i ≠ .memw a d) (b : WriteBuffer) :
    (effect i s).2.writable b = s.writable b := by
  cases i with
  | memw a d => exact absurd rfl (hw a d)
  | iowCtrl d => cases b <;> simp [effect, applyControlByte_eq, State.writable]
  | _ => cases b <;> rfl

/-- Under a well-formed configuration an instruction that is carried out keeps the invariant: the index `MEMW`
resolves to is inside its buffer (R40). -/
theorem effect_buffersFit {s : State} (i : Instr) (hc : s.cfg.wf = true) (hs : s.BuffersFit) :
    (effect i s).2.BuffersFit := by
  by_cases hw : ∃ a d, i = .memw a d
  · obtain ⟨a, d, rfl⟩ := hw
    exact poke_buffersFit d hs (resolveWrite_inside hc a)
  · exact buffersFit_congr (effect_cfg i s)
      (effect_writable s fun a d hi => hw ⟨a, d, hi⟩) hs

/-- An answered instruction keeps the invariant: a refusal writes no buffer. -/
theorem exec_buffersFit {i : Instr} {s t : State} (hs : s.BuffersFit) (h : exec i s = .next t) :
    t.BuffersFit := by
  obtain ⟨hc, -, he⟩ | ⟨-, -, -, he⟩ | ⟨-, he⟩ := exec_cases i s <;>
    obtain rfl := Host.Outcome.next.inj (he.symm.trans h)
  · exact effect_buffersFit i hc hs
  · exact hs
  · exact hs

/-- Settles O54. Taking an input and turning one down write no buffer, and an instruction keeps the
invariant. -/
theorem stepKeepsBuffersFit : Obligations.StepKeepsBuffersFit := by
  intro s t hs h
  obtain rfl | ⟨w, rest, -, ⟨i, -, he⟩ | ⟨why, rfl⟩⟩ := step_eq_next h
  · exact hs
  · exact exec_buffersFit (s := s.awaiting rest) hs he
  · exact hs

/-- Settles O55. Nothing is listed, so nothing is out of order or outside. -/
theorem resetBuffersFit : Obligations.ResetBuffersFit :=
  ⟨⟨Memory.wf_nil, rfl⟩, ⟨Memory.wf_nil, rfl⟩, ⟨Memory.wf_nil, rfl⟩⟩

/-! ### One byte written -/

/-- After a poke the byte poked reads as written and every other byte of the three buffers as before. -/
theorem read_poke {s : State} (hs : s.BuffersFit) (b b' : WriteBuffer) (i i' : Nat) (v : Byte) :
    Memory.read ((s.poke b i v).writable b') i' =
      if (b', i') = (b, i) then v else Memory.read (s.writable b') i' := by
  have hwf : Memory.wf (s.writable b) = true := (buffersFit_iff.mp hs b).1
  rw [poke_writable]
  by_cases hb : b' = b
  · subst hb
    simp [Memory.read_write i i' v hwf, eq_comm]
  · simp [hb]

/-- Settles O22. `MEMW` pokes the byte it resolves to. -/
theorem memoryWriteChangesOneByte : Obligations.MemoryWriteChangesOneByte := by
  intro s a d hready hs
  refine ⟨_, exec_eq_effect_of_ready _ hready, ?_, fun b i hne => ?_, ?_⟩
  · exact (read_poke hs _ _ _ _ d).trans (if_pos rfl)
  · exact (read_poke hs _ _ _ _ d).trans (if_neg hne)
  · exact congrArg (State.giving .nothing) (poke_eq s _ _ d)

/-! ### What a read resolves to and returns -/

/-- Settles O17. The index is inside its buffer by R40; the read writes its result alone. -/
theorem memoryReadReturnsResolvedByte : Obligations.MemoryReadReturnsResolvedByte :=
  fun _ a => ⟨fun hready => ⟨resolveRead_inside hready.1 a, exec_eq_effect_of_ready _ hready⟩,
    fun hc hb => exec_of_unbooted hc hb rfl⟩

/-- The read pairs follow the configuration and the read selections alone (R34). -/
theorem readPair_congr {s t : State} (hc : t.cfg = s.cfg) (hsel : s.SameSelections t) :
    t.readPair = s.readPair := by
  obtain ⟨r1, r2, r3, -⟩ := hsel
  funext k
  cases k <;> simp only [State.readPair, hc, r1, r2, r3]

/-- Where a read resolves to follows the configuration and the selections alone (R37). -/
theorem resolveRead_congr {s t : State} (a : CpuAddr) (hc : t.cfg = s.cfg)
    (hsel : s.SameSelections t) : t.resolveRead a = s.resolveRead a := by
  simp only [State.resolveRead, hc, readPair_congr hc hsel]

/-- Settles O24. The write changes no selection, so the read still resolves to the byte written. -/
theorem nextFetchSeesRamWrite : Obligations.NextFetchSeesRamWrite := by
  intro s a d hready hs hread hwrite
  have hw := exec_eq_effect_of_ready (.memw a d) hready
  have hresolve : (effect (.memw a d) s).2.resolveRead a = (.ram, (s.resolveRead a).2) :=
    (resolveRead_congr a (effect_cfg _ s)
      (effect_keeps_selections (i := .memw a d) rfl nofun nofun).1).trans (Prod.ext hread rfl)
  have hbyte : Memory.read (effect (.memw a d) s).2.ram (s.resolveRead a).2 = d := by
    rw [effect, hwrite]
    exact (read_poke hs .ram .ram _ _ d).trans (if_pos rfl)
  refine ⟨_, hw, (exec_memr_of_resolveRead (effect_ready hready) hresolve).trans ?_⟩
  rw [State.readable, hbyte]
  rfl

/-- What a read that is carried out returns follows the configuration, the selections and the RAM alone: the
other buffers that a read can reach are the configuration's ROMs (R34, R48). -/
theorem effect_memr_congr {s t : State} (a : CpuAddr) (hc : t.cfg = s.cfg)
    (hsel : s.SameSelections t) (hram : t.ram = s.ram) :
    (effect (.memr a) t).2 = t.giving (effect (.memr a) s).2.result := by
  have hreadable : t.readable = s.readable := by
    funext b
    cases b <;> simp only [State.readable, hc, hram]
  rw [effect, resolveRead_congr a hc hsel, hreadable]
  rfl

/-- Settles O25. A read that returned a byte was carried out, and one that is carried out reads neither VRAM nor
HIRES. -/
theorem cpuReadsIgnoreVideoBuffers : Obligations.CpuReadsIgnoreVideoBuffers := by
  intro s a v h r hread
  obtain ⟨he, he'⟩ | ⟨why, he, -⟩ :=
      exec_alike (.memr a) (s := s) (s' := { s with vram := v, hires := h }) rfl rfl <;>
    have hout := congrArg State.result (Host.Outcome.next.inj (he.symm.trans hread))
  · have hsame := effect_memr_congr a (s := s) (t := { s with vram := v, hires := h }) rfl
      (by simp [State.SameSelections]) rfl
    rw [he', hsame, hout]
    rfl
  · cases hout

/-! ### A byte under the ROM -/

/-- Settles O23. Window 1 writes go to the RAM at the CPU address, and reads come from ROM1 until the control
write turns the read view to RAM as well. -/
theorem writeUnderRomIsReadInFullRam : Obligations.WriteUnderRomIsReadInFullRam := by
  intro s a d hready hs hsel hlo hhi
  have hk : (winRange s.cfg .w1).covers a.toNat = true := Window_covers.mpr ⟨hlo, hhi⟩
  obtain ⟨hrom, -⟩ := readPairs_of_resetSelections hsel
  have hbyte : Memory.read ((s.poke .ram a.toNat d).writable .ram) a.toNat = d :=
    (read_poke hs .ram .ram _ _ d).trans (if_pos rfl)
  exact ⟨_, _, _, _, exec_memw_of_ram d hready hk rfl,
    exec_memr_of_covers (k := .w1) hready hk hrom (Nat.zero_add _), rfl,
    exec_iowCtrl_of_ready 0x02#8 hready, exec_memr_of_ram (k := .w1) hready hk rfl,
    congrArg Result.byte hbyte⟩

end Sys2Proof.Machine
end

section
/-! SUPPORT. The whole machine: which input a step runs (20_memory), that every step has a next state and every
list of inputs is completed (60_exceptions), what a transaction leaves as it was, which one writes a latch
(10_state), and what the block shows before the first `RESET` (70_reset_and_hazards). -/

namespace Sys2Proof.Machine

/-! ### Steps and runs -/

/-- With no input to take nothing happens (log 1). -/
theorem step_of_nil {s : State} (hf : s.feed = []) : step s = .next s := by
  simp [step, State.takeInput, hf]

/-- Settles O1. A step runs the word's transaction on the state that has taken it, and `IOW_CTRL` runs the class
of its byte. -/
theorem stepRunsDecodedInstruction : Obligations.StepRunsDecodedInstruction :=
  ⟨fun _ _ _ _ hf hd _ => step_of_decoded hf hd, fun _ => step_of_nil, fun s d rest hready hf =>
    (step_of_decoded hf (decodeTxn_encodeIowCtrl d)).trans
      (controlWriteRunsItsClass (s.awaiting rest) d hready)⟩

/-- Every instruction has a next state: carried out or turned down (R101, R106). -/
theorem exec_has_next (i : Instr) (s : State) : ∃ t, exec i s = .next t := by
  obtain ⟨-, -, he⟩ | ⟨-, -, -, he⟩ | ⟨-, he⟩ := exec_cases i s <;> exact ⟨_, he⟩

/-- Settles O53. A step does nothing, runs an instruction, or turns a word down. -/
theorem everyStepHasANextState : Obligations.EveryStepHasANextState := by
  intro s
  obtain ⟨-, hs⟩ | ⟨w, rest, -, ⟨i, -, hs⟩ | ⟨why, -, hs⟩⟩ := step_cases s
  · exact ⟨_, hs⟩
  · rw [hs]
    exact exec_has_next i _
  · exact ⟨_, hs⟩

/-- A run is a step and the run that follows it. -/
theorem run_succ_of_step {s t : State} (k : Nat) (h : step s = .next t) :
    core.run (k + 1) s = core.run k t := by
  simp only [Host.Core.run, show core.step s = .next t from h]

/-- As many steps as there are inputs complete them, since each step takes one (R44). -/
theorem run_completes (k : Nat) {s : State} (hk : s.feed.length = k) :
    ∃ t, core.run k s = .next t ∧ t.feed = [] ∧ t.cfg = s.cfg := by
  induction k generalizing s with
  | zero => exact ⟨s, rfl, List.eq_nil_of_length_eq_zero hk, rfl⟩
  | succ k ih =>
    obtain ⟨u, hu⟩ := everyStepHasANextState s
    obtain ⟨hfeed, hcfg⟩ := stepTakesOneInputAndKeepsTheConfiguration s u hu
    obtain ⟨t, hrun, hnil, hkept⟩ := ih (s := u) (by rw [hfeed, List.length_tail, hk]; rfl)
    exact ⟨t, (run_succ_of_step k hu).trans hrun, hnil, hkept.trans hcfg⟩

/-- Settles O56, by induction on the number of inputs. -/
theorem everyFeedIsCompleted : Obligations.EveryFeedIsCompleted := fun _ => run_completes _ rfl

/-! ### What a transaction writes -/

/-- Settles O11. A decode class needs no `RESET`, and writes its six selections. -/
theorem bareControlByteSelects : Obligations.BareControlByteSelects := fun _ _ hc =>
  ⟨exec_of_ready hc nofun, exec_of_ready hc nofun, exec_of_ready hc nofun, exec_of_ready hc nofun,
    exec_of_ready hc nofun⟩

/-- The four reading transactions, carried out, write their result alone (R43, R80, R94, R96). -/
theorem effect_of_reading {i : Instr}
    (hi : i = .iorStatus ∨ (∃ a, i = .memr a) ∨ (∃ base ra n cur, i = .render base ra n cur) ∨
      i = .palinit) (s : State) : ∃ r, (effect i s).2 = s.giving r := by
  obtain rfl | ⟨a, rfl⟩ | ⟨base, ra, n, cur, rfl⟩ | rfl := hi <;> exact ⟨_, rfl⟩

/-- Settles O51. Carried out, the four write their result; turned down, they write `refused` and return the
refusal. -/
theorem readingTransactionsChangeNoState : Obligations.ReadingTransactionsChangeNoState := by
  intro i s t hi h
  obtain rfl | ⟨why, rfl⟩ := exec_eq_next h
  · obtain ⟨r, hr⟩ := effect_of_reading hi s
    rw [hr]
    exact ⟨rfl, fun _ => rfl⟩
  · exact ⟨rfl, fun hno => absurd ⟨why, rfl⟩ hno⟩

/-- An instruction that is carried out keeps `S`, or is `IOW_CTRL` of the byte that `S` then holds, or `RESET`
(R10). -/
theorem effect_status (i : Instr) (s : State) :
    (effect i s).2.status = s.status ∨ i = .iowCtrl (effect i s).2.status ∨ i = .reset := by
  cases i with
  | iowCtrl d => exact .inr (.inl (congrArg Instr.iowCtrl (effect_iowCtrl_selects d s).1.symm))
  | reset => exact .inr (.inr rfl)
  | _ => simp [effect, selectFullRam, selectRomHiresW4, selectRomRamW4]

/-- An instruction that is carried out keeps the display-enable latch, or is `DE` of the level that the latch then
holds, or `RESET` (R12). -/
theorem effect_de (i : Instr) (s : State) :
    (effect i s).2.de = s.de ∨ i = .de (effect i s).2.de ∨ i = .reset := by
  cases i with
  | de l => exact .inr (.inl rfl)
  | reset => exact .inr (.inr rfl)
  | _ => simp [effect, applyControlByte_eq, selectFullRam, selectRomHiresW4, selectRomRamW4]

/-- Settles O34. Carried out, the one writer of a latch beside `RESET` writes its operand there; a refusal writes
neither latch. -/
theorem latchesHaveOneWriter : Obligations.LatchesHaveOneWriter := by
  intro i s t h
  obtain rfl | ⟨why, rfl⟩ := exec_eq_next h
  · exact ⟨(effect_status i s).resolve_left, (effect_de i s).resolve_left⟩
  · exact ⟨fun hne => absurd rfl hne, fun hne => absurd rfl hne⟩

/-! ### Power-on and the first `RESET` -/

/-- Settles O45. `RESET` overwrites every field without a value, and its draws are the first. -/
theorem stateResetFollowsPowerOn : Obligations.StateResetFollowsPowerOn :=
  ⟨fun _ _ _ _ _ hc => exec_reset_of_wf hc, by decide, rfl⟩

/-- The fields that two states which differ only in what has no value agree in (R110). -/
theorem sameButUnset_iff {s t : State} :
    s.SameButUnset t ↔
      t.cfg = s.cfg ∧ t.ram = s.ram ∧ t.vram = s.vram ∧ t.hires = s.hires ∧ t.booted = s.booted ∧
        t.refused = s.refused ∧ t.feed = s.feed ∧ t.result = s.result ∧ t.draws = s.draws := by
  cases s
  cases t
  simp [State.SameButUnset]

/-- Taking the same word keeps two such states such. -/
theorem sameButUnset_awaiting {s t : State} (h : s.SameButUnset t) (rest : List TxnWord) :
    (s.awaiting rest).SameButUnset (t.awaiting rest) := by
  obtain ⟨cfg, ram, vram, hires, booted, refused, -, result, draws⟩ := sameButUnset_iff.mp h
  exact sameButUnset_iff.mpr ⟨cfg, ram, vram, hires, booted, refused, rfl, result, draws⟩

/-- Returning the same result keeps two such states such. -/
theorem sameButUnset_giving {s t : State} (h : s.SameButUnset t) (r : Result) :
    (s.giving r).SameButUnset (t.giving r) := by
  obtain ⟨cfg, ram, vram, hires, booted, refused, feed, -, draws⟩ := sameButUnset_iff.mp h
  exact sameButUnset_iff.mpr ⟨cfg, ram, vram, hires, booted, refused, feed, rfl, draws⟩

/-- Turning an input down for the same reason keeps two such states such. -/
theorem sameButUnset_turnDown {s t : State} (h : s.SameButUnset t) (why : RefuseReason) :
    (s.turnDown why).SameButUnset (t.turnDown why) := by
  obtain ⟨cfg, ram, vram, hires, booted, -, feed, -, draws⟩ := sameButUnset_iff.mp h
  exact sameButUnset_iff.mpr ⟨cfg, ram, vram, hires, booted, rfl, feed, rfl, draws⟩

/-- `RESET` overwrites all in which two such states may differ (R109). -/
theorem machineReset_of_sameButUnset {s t : State} (h : s.SameButUnset t) :
    s.machineReset = t.machineReset := by
  obtain ⟨cfg, ram, vram, hires, -, refused, feed, result, draws⟩ := sameButUnset_iff.mp h
  simp only [State.machineReset, cfg, ram, vram, hires, refused, feed, result, draws]

/-- Before a `RESET` a transaction is a `RESET`, a `PALINIT` or turned down, so that two states which differ only
in what has no value answer alike (R110, R111). -/
theorem exec_of_sameButUnset {i : Instr} {s s' : State} (hi : i.isTransaction = true)
    (hb : s.booted = false) (h : s.SameButUnset s') :
    ∃ t t', exec i s = .next t ∧ exec i s' = .next t' ∧ t.SameButUnset t' ∧
      (t.booted = true → t = t') := by
  obtain ⟨hcfg, -, -, -, hbooted, -⟩ := sameButUnset_iff.mp h
  have hoff {p : Prop} (hon : s.booted = true) : p := absurd (hb.symm.trans hon) nofun
  obtain ⟨hc, hboot, -⟩ | ⟨hc, -, hn, he⟩ | ⟨hc, he⟩ := exec_cases i s
  · have hno : ¬ (i ≠ .reset ∧ i ≠ .palinit) := fun hneeds =>
      hoff (hboot ((transaction_needsReset_iff s hi).mpr hneeds))
    have hc' : s'.cfg.wf = true := by rwa [hcfg]
    by_cases hr : i = .reset
    · subst hr
      refine ⟨_, _, exec_reset_of_wf hc, exec_reset_of_wf hc', ?_⟩
      rw [machineReset_of_sameButUnset h]
      exact ⟨rfl, fun _ => rfl⟩
    · obtain rfl : i = .palinit := not_not.mp fun hp => hno ⟨hr, hp⟩
      exact ⟨_, _, exec_palinit_of_wf hc, exec_palinit_of_wf hc', sameButUnset_giving h _, hoff⟩
  · exact ⟨_, _, he, exec_of_unbooted (by rwa [hcfg]) (hbooted.trans hb)
      ((effect_needsReset i s s').trans hn), sameButUnset_turnDown h _, hoff⟩
  · exact ⟨_, _, he, exec_of_ill i (by rwa [hcfg]), sameButUnset_turnDown h _, hoff⟩

/-- Settles O50. Both states take the same word, and then run the same transaction or turn the word down. -/
theorem noTransactionShowsUnsetFields : Obligations.NoTransactionShowsUnsetFields := by
  intro s s' hb h
  suffices hstep : ∃ t t', step s = .next t ∧ step s' = .next t' ∧ t.SameButUnset t' ∧
      (t.booted = true → t = t') by
    obtain ⟨t, t', hs, hs', hsame, heq⟩ := hstep
    obtain ⟨-, -, -, -, -, -, -, hresult, -⟩ := sameButUnset_iff.mp hsame
    exact ⟨t, t', hs, hs', hsame, hresult.symm, heq⟩
  obtain ⟨hcfg, -, -, -, -, -, hfeed, -⟩ := sameButUnset_iff.mp h
  have hoff {p : Prop} (hon : s.booted = true) : p := absurd (hb.symm.trans hon) nofun
  cases hf : s.feed with
  | nil => exact ⟨s, s', step_of_nil hf, step_of_nil (hfeed.trans hf), h, hoff⟩
  | cons w rest =>
    have htaken := sameButUnset_awaiting h rest
    cases hd : decodeTxn w with
    | ok i =>
      rw [step_of_decoded hf hd, step_of_decoded (hfeed.trans hf) hd]
      exact exec_of_sameButUnset (decodeTxn_isTransaction hd) hb htaken
    | error why =>
      have hs' := step_of_rejected (hfeed.trans hf) hd
      rw [hcfg] at hs'
      exact ⟨_, _, step_of_rejected hf hd, hs', sameButUnset_turnDown htaken _, hoff⟩

end Sys2Proof.Machine
end
